-- ==== Sys2Proof/Word.lean ====
section
/-!
DEFINITION. The words that cross the block's two ports, the ports' names, and the events the outside sends.

Bit 0 is the least significant bit of every word (00_scope.md R9). Every transfer is one whole 32-bit word (20_memory.md R41).
-/
namespace Sys2Proof

/-- A command word or a response word, 32 bits (20_memory.md R43). -/
abbrev Word := BitVec 32

/-- A key code, `KEY_W` = 16 bits (00_scope.md R7). -/
abbrev KeyCode := BitVec 16

/-- The two command ports: `I` of the input/frame context, `A` of the audio context (00_scope.md R12). -/
inductive Port where
  | I
  | A
deriving DecidableEq, Repr

/-- One command: a 32-bit word issued on a port (30_encoding.md R55). -/
structure Command where
  port : Port
  word : Word
deriving DecidableEq, Repr

/-- What the outside does to the block: it issues a command, or it applies reset (70_reset_and_hazards.md R155). -/
inductive Event where
  | command (c : Command)
  | reset
deriving DecidableEq, Repr

end Sys2Proof
end

