-- ==== Sys2Proof/Syntax.lean ====
section
/-!
DEFINITION. The commands of the block as syntax: one constructor for each of the eleven rows of spec/opcode_table.json.
-/
namespace Sys2Proof

/-- A legal command (30_encoding.md R66, R67). `FILL` and `.word` are assembler lines, not commands (R71, R72). -/
inductive Instr where
  /-- `KEYDOWN key`, port I (40_encoder.md R76). -/
  | keydown (key : KeyCode)
  /-- `KEYUP key`, port I (R77). -/
  | keyup (key : KeyCode)
  /-- `SAMPLE`, port A (41_oscillator.md R92). -/
  | sample
  /-- `BUFEND`, port A (R95). -/
  | bufend
  /-- `RD CTRL1`, port I (42_readback.md R116). -/
  | rdCtrl1
  /-- `RD CTRL2`, port I (R117). -/
  | rdCtrl2
  /-- `RD STEP`, port I (R118). -/
  | rdStep
  /-- `RD AMP`, port I (R119). -/
  | rdAmp
  /-- `RD INC`, port I (R120). -/
  | rdInc
  /-- `RD PHASE`, port I (R121). -/
  | rdPhase
  /-- `RD STATUS`, port I (R122). -/
  | rdStatus
deriving DecidableEq, Repr

end Sys2Proof
end

