-- ==== Sys2Proof/WellFormed.lean ====
section
/-!
DEFINITION. When a command is well formed.

A command's only operand, `KEY`, is any 16-bit code (30_encoding.md R70), and its type holds no other value, so every `Instr` is
well formed as syntax. What can be wrong with a command is the PORT it is issued on (R61).
-/
namespace Sys2Proof

/-- The one port a command is legal on (30_encoding.md R60, R61; 60_exceptions.md R145). -/
def Instr.port : Instr → Port
  | .keydown _ => .I
  | .keyup _ => .I
  | .sample => .A
  | .bufend => .A
  | .rdCtrl1 => .I
  | .rdCtrl2 => .I
  | .rdStep => .I
  | .rdAmp => .I
  | .rdInc => .I
  | .rdPhase => .I
  | .rdStatus => .I

/-- A command issued on a port is well formed when the port is the command's own (30_encoding.md R61). -/
def Instr.wellFormedOn (p : Port) (i : Instr) : Bool := p == i.port

end Sys2Proof
end

