-- ==== Sys2Proof/Decode.lean ====
section
/-!
DEFINITION. Decoding a word on a port, total and rejecting by cause (30_encoding.md R67), and the encoder.
-/
namespace Sys2Proof

/-- Why a word is an illegal command (60_exceptions.md R136). -/
inductive Cause where
  | reservedOpcode
  | wrongPort
  | reservedBits
  | reservedSelector
deriving DecidableEq, Repr

/-- The code by which `CAUSE` reports a cause (60_exceptions.md R136). -/
def Cause.code : Cause → BitVec 4
  | .reservedOpcode => 1#4
  | .wrongPort => 2#4
  | .reservedBits => 3#4
  | .reservedSelector => 4#4

/-! ## The fields of a command word -/

/-- The opcode field `OP`, bits 31..28 (30_encoding.md R55). -/
def opField (w : Word) : BitVec 4 := w.extractLsb' 28 4

/-- `KEY`, bits 15..0 of format K (R57). -/
def keyField (w : Word) : KeyCode := w.extractLsb' 0 16

/-- `P`, bit 16 of format K: 1 is key-down (R57). -/
def pressedField (w : Word) : BitVec 1 := w.extractLsb' 16 1

/-- `SEL`, bits 7..0 of format R (R58). -/
def selField (w : Word) : BitVec 8 := w.extractLsb' 0 8

/-- `PORT_OF`, the port of a defined opcode, and none for a reserved one (30_encoding.md R60, R67). -/
def portOfOp (op : BitVec 4) : Option Port :=
  if op = 0x1#4 ∨ op = 0x4#4 then some .I
  else if op = 0x2#4 ∨ op = 0x3#4 then some .A
  else none

/-- Whether a reserved bit of the word's format is set: bits 27..17 of format K, 27..8 of format R, 27..0 of format N
(30_encoding.md R56 to R59, R63). -/
def reservedBitSet (w : Word) : Bool :=
  if opField w = 0x1#4 then w.extractLsb' 17 11 != 0#11
  else if opField w = 0x4#4 then w.extractLsb' 8 20 != 0#20
  else w.extractLsb' 0 28 != 0#28

/-- The readback that a selector names; none for the reserved selectors 0x07 to 0xFF (30_encoding.md R62, R65). -/
def readbackOf (sel : BitVec 8) : Option Instr :=
  if sel = 0x00#8 then some .rdCtrl1
  else if sel = 0x01#8 then some .rdCtrl2
  else if sel = 0x02#8 then some .rdStep
  else if sel = 0x03#8 then some .rdAmp
  else if sel = 0x04#8 then some .rdInc
  else if sel = 0x05#8 then some .rdPhase
  else if sel = 0x06#8 then some .rdStatus
  else none

/-- Decoding of a word received on a port; the first failing check gives the cause (30_encoding.md R67; 60_exceptions.md R137). -/
def decode (p : Port) (w : Word) : Except Cause Instr :=
  match portOfOp (opField w) with
  | none => .error .reservedOpcode
  | some q =>
    if p ≠ q then .error .wrongPort
    else if reservedBitSet w then .error .reservedBits
    else if opField w = 0x1#4 then
      if pressedField w = 1#1 then .ok (.keydown (keyField w)) else .ok (.keyup (keyField w))
    else if opField w = 0x2#4 then .ok .sample
    else if opField w = 0x3#4 then .ok .bufend
    else
      match readbackOf (selField w) with
      | some i => .ok i
      | none => .error .reservedSelector

/-- The word of a command, from the encoding each command's rule gives (30_encoding.md R56, R62; 40_encoder.md R76, R77;
41_oscillator.md R92, R95; 42_readback.md R116 to R122). -/
def encode : Instr → Word
  | .keydown key => 0x1001#16 ++ key
  | .keyup key => 0x1000#16 ++ key
  | .sample => 0x20000000#32
  | .bufend => 0x30000000#32
  | .rdCtrl1 => 0x40000000#32
  | .rdCtrl2 => 0x40000001#32
  | .rdStep => 0x40000002#32
  | .rdAmp => 0x40000003#32
  | .rdInc => 0x40000004#32
  | .rdPhase => 0x40000005#32
  | .rdStatus => 0x40000006#32

/-- The port on which a word is placed when nothing else names one: the port of its opcode, and port I for a reserved
opcode, which is illegal on either port (30_encoding.md R64; log entry 8). -/
def placementPort (w : Word) : Port :=
  match portOfOp (opField w) with
  | some p => p
  | none => .I

/-- The 32-bit command word of `nbits` numbered bits `w`; the bits above `nbits` are 0 (30_encoding.md R69). -/
def tableWord (nbits w : Nat) : Word := BitVec.ofNat 32 (w % 2 ^ nbits)

/-- What the decoder reads from a word as spec/opcode_table.json numbers it, on the port of its opcode. -/
def decodeTableWord (nbits w : Nat) : Option Instr :=
  match decode (placementPort (tableWord nbits w)) (tableWord nbits w) with
  | .ok i => some i
  | .error _ => none

end Sys2Proof
end

