-- ==== Sys2Proof/Config.lean ====
section
/-!
DEFINITION. The implementation parameters of the block as plain data, and the free value of its racy reads.

The spec leaves every parameter below OPEN (00_scope.md R7, 92_eei_decisions.md): the model fixes none of them. Which
parameter sets are legal, and the type that holds only legal ones, stand in Machine/Configuration.lean.
-/
namespace Sys2Proof

/-- The parameters of a block, fixed for the life of a run (00_scope.md R7, 70_reset_and_hazards.md R158). Plain data, legal or
not. `BASE_FREQ` and `SAMPLE_RATE` are absent: no rule of behaviour reads them (R8), and they are arguments of the
reference table alone (R28, `Params.IsReferenceTable`). -/
structure Params where
  /-- `PHASE_W`, the width of the phase accumulator's fraction. -/
  phaseW : Nat
  /-- `N`, the number of steps. -/
  n : Nat
  /-- `INC[0..N-1]`, the phase increment of each step, as integers (10_state.md R27). -/
  inc : List Nat
  /-- `MAX_AMP`, the amplitude at step N-1 (R29). -/
  maxAmp : Nat
  /-- `BIND[1]`, the key codes of controller 1's buttons 0 to 7 (R26). -/
  bind1 : Vector KeyCode 8
  /-- `BIND[2]`, the key codes of controller 2's buttons 0 to 7 (R26). -/
  bind2 : Vector KeyCode 8
deriving DecidableEq, Repr

/-- FREE VALUE: which candidate each bit of the k-th racy read is drawn from (00_scope.md R11, 20_memory.md R46). It has no
body, so nothing can be proved of its value: a claim about a racy read holds for every draw (log entry 6). -/
opaque Config.freeDraw : Nat → Word

end Sys2Proof
end

