-- ==== Sys2Proof/Machine/Configuration.lean ====
section
/-!
DEFINITION. What the parameters give: the constants ONE and HALF, the increment and amplitude of a step, the reference
table, which parameter sets are legal, and the type of legal configurations (10_state.md section 3).
-/
namespace Sys2Proof

/-! ## Constants and functions of a step -/

/-- `ONE = 2^PHASE_W`, the fixed-point form of 1.0 (10_state.md R24). -/
def Params.one (p : Params) : Nat := 2 ^ p.phaseW

/-- `HALF = 2^(PHASE_W-1)`, the fixed-point form of 0.5 (10_state.md R24). -/
def Params.half (p : Params) : Nat := 2 ^ (p.phaseW - 1)

/-- `INC[s]` (10_state.md R27). The table has an entry for every step below N. For the others, which no reachable state
holds (R36), the model answers 0 (DESIGN CHOICE, log entry 7). -/
def Params.incAt (p : Params) (s : Nat) : Nat := p.inc.getD s 0

/-- `AMP(s) = (MAX_AMP * s) div (N - 1)`, the product first and the quotient rounded down (10_state.md R29). -/
def Params.amp (p : Params) (s : Nat) : Nat := p.maxAmp * s / (p.n - 1)

/-! ## Legal parameter sets -/

/-- The ranges of 00_scope.md R7, and one increment for every step. -/
def Params.rangesOk (p : Params) : Bool :=
  decide (2 ≤ p.phaseW) && decide (p.phaseW ≤ 32) && decide (2 ≤ p.n) && decide (p.n ≤ 65536) &&
    decide (p.maxAmp ≤ 32767) && decide (p.inc.length = p.n)

/-- 10_state.md R27 (a): `1 <= INC[s] < ONE` for every step. -/
def Params.incrementsOk (p : Params) : Bool :=
  p.inc.all fun v => decide (1 ≤ v) && decide (v < p.one)

/-- 10_state.md R27 (b): `INC[s+12] = 2 * INC[s]` wherever both exist. -/
def Params.octavesOk (p : Params) : Bool :=
  (p.inc.zip (p.inc.drop 12)).all fun q => decide (q.2 = 2 * q.1)

/-- 10_state.md R27 (c): `INC[s] <= INC[s+1]` wherever both exist. -/
def Params.ladderOk (p : Params) : Bool :=
  (p.inc.zip (p.inc.drop 1)).all fun q => decide (q.1 ≤ q.2)

/-- A legal configuration (10_state.md R30). -/
def Params.legal (p : Params) : Bool :=
  p.rangesOk && p.incrementsOk && p.octavesOk && p.ladderOk

/-! ## The reference table -/

/-- `inc` is the reference table of 10_state.md R28 for the positive reals `BASE_FREQ` and `SAMPLE_RATE` (92_eei_decisions.md):
real arithmetic and then the floor for s < 12, and twice the entry an octave below for the others. No real rate is left
out, and each pair of positive rates has exactly one table of each size. Nothing makes it legal: a host checks it like any
other (R30). A relation, because real arithmetic does not evaluate (log entry 9). -/
def Params.IsReferenceTable (baseFreq sampleRate : ℝ) (phaseW n : Nat) (inc : List Nat) : Prop :=
  0 < baseFreq ∧ 0 < sampleRate ∧ inc.length = n ∧
    ∀ s v : Nat, inc[s]? = some v →
      v = if s < 12 then ⌊baseFreq * (2 : ℝ) ^ ((s : ℝ) / 12) * 2 ^ phaseW / sampleRate⌋₊ else 2 * inc.getD (s - 12) 0

/-- The greatest number below `2 ^ bits` above `acc` that passes a downward-closed test, found from its high bit down. -/
def floorSearch (ok : Nat → Bool) : (bits : Nat) → (acc : Nat) → Nat
  | 0, acc => acc
  | b + 1, acc => floorSearch ok b (if ok (acc + 2 ^ b) then acc + 2 ^ b else acc)

/-- `floor(BASE_FREQ * 2^(s/12) * ONE / SAMPLE_RATE)` for s < 12 (10_state.md R28), evaluated exactly where the ratio of the two
rates is `num / den`: the greatest k with `(k * den)^12 <= (num * ONE)^12 * 2^s`. -/
def referenceBase (num den phaseW s : Nat) : Nat :=
  floorSearch (fun k => decide ((k * den) ^ 12 ≤ (num * 2 ^ phaseW) ^ 12 * 2 ^ s))
    (Nat.log2 (2 * (num * 2 ^ phaseW) / den) + 1) 0

/-- The reference increment of a step, for rates of ratio `num / den`: the floor for s < 12, and `2 * INC[s-12]` above, that
is, one doubling for each whole octave (10_state.md R28). -/
def referenceInc (num den phaseW s : Nat) : Nat :=
  2 ^ (s / 12) * referenceBase num den phaseW (s % 12)

/-- The reference table evaluated, for positive rational rates in Hz: the table `Params.IsReferenceTable` names (statement
ReferenceTableIsEvaluated). -/
def Params.referenceTable (baseFreq sampleRate : ℚ) (phaseW n : Nat) : List Nat :=
  (List.range n).map
    (referenceInc (baseFreq.num.toNat * sampleRate.den) (sampleRate.num.toNat * baseFreq.den) phaseW)

/-! ## The configuration a machine has -/

/-- A legal configuration: parameters paired with the check of R30. An illegal parameter set cannot be built into one, so it
has no state and no run, which is how the model refuses it (10_state.md R30; log entry 2). -/
structure Config where
  params : Params
  legal : params.legal = true
deriving DecidableEq, Repr

/-- The configuration of these parameters, or none: the model refuses an illegal one (10_state.md R30). -/
def Config.ofParams (p : Params) : Option Config :=
  if h : p.legal = true then some ⟨p, h⟩ else none

/-- Some legal configuration, to show that there is one. Nothing else uses it. -/
def Config.smallest : Config :=
  ⟨{ phaseW := 2, n := 2, inc := [1, 1], maxAmp := 0, bind1 := Vector.replicate 8 0#16, bind2 := Vector.replicate 8 0#16 },
    by decide⟩

/-- OPEN: some legal configuration. It has no body, so nothing can be proved of it but that it is legal. -/
opaque Config.openConfig [Inhabited Config] : Config

/-- The configuration a machine comes out of reset with: any legal one (00_scope.md R7, 70_reset_and_hazards.md R158; log entry 1). -/
def Config.machine : Config := @Config.openConfig ⟨Config.smallest⟩

end Sys2Proof
end

