-- ==== Sys2Proof/Machine/State.lean ====
section
/-!
DEFINITION. The state of the machine as plain data, its state after reset, and the reasons a step can stop.

The nine elements of 10_state.md R21 are the block's whole changeable state. The other five fields are the configuration, which no
step changes (70_reset_and_hazards.md R158), and the model's own record of the outside: the events still to be performed, the
responses given, and the count of racy draws.
-/
namespace Sys2Proof.Machine

structure State where
  /-- The configuration, fixed for a run (00_scope.md R7). -/
  cfg : Config
  /-- `KS1`, the KeyState of controller 1: bit b is button b, 1 is pressed (10_state.md R22). -/
  ks1 : BitVec 8
  /-- `KS2`, the KeyState of controller 2. -/
  ks2 : BitVec 8
  /-- `PHASE`, the phase accumulator: a fraction of `PHASE_W` bits, zero-extended, below ONE (R23). -/
  phase : Word
  /-- `STEP`, the step counter, below N (R25). -/
  stepCtr : BitVec 16
  /-- `ERR`, 1 once an illegal command has been received (R33). -/
  err : BitVec 1
  /-- `CAUSE`, the cause code of the first illegal command, or 0 (R33). -/
  cause : BitVec 4
  /-- `EPORT`, the port of the first illegal command, 0 for I and 1 for A (R33). -/
  eport : BitVec 1
  /-- `PREV_PHASE`, hidden: what `PHASE` held before it last changed (R34). -/
  prevPhase : Word
  /-- `PREV_STEP`, hidden: what `STEP` held before it last changed (R34). -/
  prevStep : BitVec 16
  /-- The model's own: the events still to be performed, in the total order of 20_memory.md R48, the next one first. -/
  input : List Event
  /-- The model's own: the response words given on port I, newest first (30_encoding.md R68). -/
  respI : List Word
  /-- The model's own: the response words given on port A, newest first. -/
  respA : List Word
  /-- The model's own: how many racy reads have drawn, the argument of `Config.freeDraw` (20_memory.md R46). -/
  draws : Nat
deriving DecidableEq, Repr

/-- Reasons to stop with a fault: none. Nothing in the block stops (93_implementation_defined.md), and an illegal command is
recorded in the status while the block goes on (60_exceptions.md R135). Nobody raises one. -/
inductive Fault where
deriving DecidableEq, Repr

/-- Reasons to refuse. -/
inductive Refusal where
  /-- Raised by an arm of `exec` whose instruction has no meaning yet, and by nothing else. Safe: the machine stops. No arm
  of this model raises it. -/
  | notModelled (mnemonic : String)
deriving DecidableEq, Repr

/-- The machine right after reset: every element of R21 at the value of 70_reset_and_hazards.md R156, with any legal
configuration, no event to perform and no response given. -/
def State.reset : State where
  cfg := Config.machine
  ks1 := 0x00#8
  ks2 := 0x00#8
  phase := 0#32
  stepCtr := 0#16
  err := 0#1
  cause := 0#4
  eport := 0#1
  prevPhase := 0#32
  prevStep := 0#16
  input := []
  respI := []
  respA := []
  draws := 0

end Sys2Proof.Machine
end

