-- ==== Sys2Proof/Machine/Flags.lean ====
section
/-!
DEFINITION. The block's flags: the buttons and their flag values, the controller registers, and the status fields.
-/
namespace Sys2Proof.Machine

/-! ## Buttons (10_state.md R31) -/

/-- The buttons of a controller. -/
inductive Button where
  | a
  | b
  | select
  | start
  | up
  | down
  | left
  | right
deriving DecidableEq, Repr

/-- The index of a button: its bit in `KSc` and `CTRLc`, and its place in `BIND[c]` (10_state.md R31). -/
def Button.index : Button → Fin 8
  | .a => 0
  | .b => 1
  | .select => 2
  | .start => 3
  | .up => 4
  | .down => 5
  | .left => 6
  | .right => 7

/-- The flag value of a button, 2 to the power of its index (10_state.md R31). -/
def Button.flag (btn : Button) : BitVec 8 := 1#8 <<< btn.index.val

/-- The eight buttons in index order. -/
def Button.all : List Button := [.a, .b, .select, .start, .up, .down, .left, .right]

/-- Whether a KeyState holds a button pressed (10_state.md R22). -/
def pressed (ks : BitVec 8) (btn : Button) : Bool := ks.getLsbD btn.index.val

/-- A KeyState with one entry written (10_state.md R22). -/
def setButton (btn : Button) (v : Bool) (ks : BitVec 8) : BitVec 8 :=
  if v then ks ||| btn.flag else ks &&& ~~~btn.flag

/-- `computeRegister`: the OR of the flag values of the pressed buttons (40_encoder.md R78, 10_state.md R32). -/
def computeRegister (ks : BitVec 8) : BitVec 8 :=
  Button.all.foldl (fun r btn => if pressed ks btn then r ||| btn.flag else r) 0x00#8

/-! ## Status (10_state.md R33) -/

/-- The bit by which `EPORT` names a port (60_exceptions.md R135). -/
def portBit : Port → BitVec 1
  | .I => 0#1
  | .A => 1#1

/-- The illegal command's record: the first since reset is kept, a later one changes nothing (60_exceptions.md R135, R138). -/
def State.recordIllegal (c : Cause) (p : Port) (s : State) : State :=
  { s with
    err := if s.err = 0#1 then 1#1 else s.err
    cause := if s.err = 0#1 then c.code else s.cause
    eport := if s.err = 0#1 then portBit p else s.eport }

/-- The word `RD STATUS` reads: ERR in bit 0, CAUSE in bits 7..4, EPORT in bit 8, and 0 elsewhere (42_readback.md R115, R122). -/
def statusWord (s : State) : Word := 0#23 ++ s.eport ++ s.cause ++ 0#3 ++ s.err

end Sys2Proof.Machine
end

