-- ==== Sys2Proof/Machine/Operands.lean ====
section
/-!
DEFINITION. The operand of a command: `KEY`, matched against the bindings. No other command has one (30_encoding.md R56, R70).
-/
namespace Sys2Proof.Machine

/-- Whether a key code matches a button: the two 16-bit codes are equal, compared whole (40_encoder.md R75). -/
def keyMatches (bind : Vector KeyCode 8) (key : KeyCode) (btn : Button) : Bool := bind.get btn.index == key

/-- One controller's KeyState after a transition of a key: every matching entry is written, none of the others (40_encoder.md
R76, R77). The search stops at no match (R75), so a key bound twice writes both entries (R81). -/
def recordTransition (bind : Vector KeyCode 8) (key : KeyCode) (v : Bool) (ks : BitVec 8) : BitVec 8 :=
  Button.all.foldl (fun k btn => if keyMatches bind key btn then setButton btn v k else k) ks

end Sys2Proof.Machine
end

