-- ==== Sys2Proof/Machine/Ops.lean ====
section
/-!
DEFINITION. The operations the commands share: answering, writing the state elements, drawing a racy value, performing an
illegal command, and reset.
-/
namespace Sys2Proof.Machine

/-! ## Answering -/

/-- `respond(w)` on a port (00_scope.md R11). -/
def State.respond (p : Port) (w : Word) (s : State) : State :=
  { s with
    respI := match p with
      | .I => w :: s.respI
      | .A => s.respI
    respA := match p with
      | .I => s.respA
      | .A => w :: s.respA }

/-! ## Writing the state elements -/

/-- Write both KeyStates. -/
def State.setKeys (k1 k2 : BitVec 8) (s : State) : State := { s with ks1 := k1, ks2 := k2 }

/-- Write `PHASE`; the value it held goes to `PREV_PHASE` (10_state.md R34). -/
def State.setPhase (v : Word) (s : State) : State := { s with phase := v, prevPhase := s.phase }

/-- Write `STEP`; the value it held goes to `PREV_STEP` (10_state.md R34). -/
def State.setStep (v : BitVec 16) (s : State) : State := { s with stepCtr := v, prevStep := s.stepCtr }

/-- Take the events still to be performed. -/
def State.setInput (es : List Event) (s : State) : State := { s with input := es }

/-- A key transition, as both `KEYDOWN` and `KEYUP` record it: every matching entry of both controllers, and the response
0 (40_encoder.md R76, R77). -/
def State.keyTransition (key : KeyCode) (v : Bool) (s : State) : State :=
  (s.setKeys (recordTransition s.cfg.params.bind1 key v s.ks1)
    (recordTransition s.cfg.params.bind2 key v s.ks2)).respond .I 0#32

/-! ## Racy reads -/

/-- `draw_bits(a, b)` under a mask: bit i is `a[i]` where the mask has 1 and `b[i]` where it has 0 (00_scope.md R11). -/
def drawBits (mask a b : Word) : Word := (mask &&& a) ||| (~~~mask &&& b)

/-- Count one draw, so that the next racy read draws afresh. -/
def State.countDraw (s : State) : State := { s with draws := s.draws + 1 }

/-- A racy readback of an OSC value: each bit of the answer is of the current or of the previous value, by the free value
`Config.freeDraw` (20_memory.md R46, 42_readback.md R118 to R121). -/
def State.racyRead (cur prev : Word) (s : State) : State :=
  (s.respond .I (drawBits (Config.freeDraw s.draws) cur prev)).countDraw

/-! ## The illegal command and reset -/

/-- The illegal command, the block's one exception: it is recorded in the status if it is the first, it answers 0, and
nothing else changes (60_exceptions.md R135, R142). It returns nowhere: the next command follows it (R143). -/
def State.illegal (c : Cause) (p : Port) (s : State) : State := (s.recordIllegal c p).respond p 0#32

/-- The reset event: every state element goes to its reset value in one step (70_reset_and_hazards.md R155, R156). The
configuration stays (R158), and so does the model's own record of the outside. -/
def State.applyReset (s : State) : State :=
  { s with
    ks1 := State.reset.ks1
    ks2 := State.reset.ks2
    phase := State.reset.phase
    stepCtr := State.reset.stepCtr
    err := State.reset.err
    cause := State.reset.cause
    eport := State.reset.eport
    prevPhase := State.reset.prevPhase
    prevStep := State.reset.prevStep }

end Sys2Proof.Machine
end

