-- ==== Sys2Proof/Machine/Encoder.lean ====
section
/-!
DEFINITION. The meanings of the encoder's commands (40_encoder.md).
-/
namespace Sys2Proof.Machine

/-- `KEYDOWN key` (40_encoder.md R76). -/
def execKeydown (key : KeyCode) (s : State) : Host.Outcome State Fault Refusal := .next (s.keyTransition key true)

/-- `KEYUP key` (40_encoder.md R77). -/
def execKeyup (key : KeyCode) (s : State) : Host.Outcome State Fault Refusal := .next (s.keyTransition key false)

end Sys2Proof.Machine
end

