-- ==== Sys2Proof/Machine/Oscillator.lean ====
section
/-!
DEFINITION. The meanings of the oscillator's commands (41_oscillator.md), computed exactly and narrowed at the end.
-/
namespace Sys2Proof.Machine

/-- The increment in force, `INC[STEP]` (41_oscillator.md R90). -/
def State.incNow (s : State) : Nat := s.cfg.params.incAt s.stepCtr.toNat

/-- The amplitude in force, `AMP(STEP)` (41_oscillator.md R91). -/
def State.ampNow (s : State) : Nat := s.cfg.params.amp s.stepCtr.toNat

/-- The pre-wrap sum `PHASE + INC[STEP]`, a transient (10_state.md R35). -/
def State.sum (s : State) : Nat := s.phase.toNat + s.incNow

/-- The sample's value: +a if the pre-wrap sum is below HALF, else -a (41_oscillator.md R92, R94). -/
def State.level (s : State) : Int :=
  if s.sum < s.cfg.params.half then (s.ampNow : Int) else -(s.ampNow : Int)

/-- The wrap: one conditional subtraction of ONE (41_oscillator.md R92, R93). -/
def wrapOnce (p : Params) (sum : Nat) : Nat := if p.one ≤ sum then sum - p.one else sum

/-- `zext_32(s16(v))`, the response word of a sample (30_encoding.md R68, 00_scope.md R10). -/
def sampleWord (v : Int) : Word := (BitVec.ofInt 16 v).setWidth 32

/-- `SAMPLE` (41_oscillator.md R92). -/
def execSample (s : State) : Host.Outcome State Fault Refusal :=
  .next ((s.setPhase (BitVec.ofNat 32 (wrapOnce s.cfg.params s.sum))).respond .A (sampleWord s.level))

/-- `BUFEND` (41_oscillator.md R95). -/
def execBufend (s : State) : Host.Outcome State Fault Refusal :=
  .next ((s.setStep (BitVec.ofNat 16 ((s.stepCtr.toNat + 1) % s.cfg.params.n))).respond .A 0#32)

end Sys2Proof.Machine
end

