-- ==== Sys2Proof/Machine/Readback.lean ====
section
/-!
DEFINITION. The meanings of the readback commands (42_readback.md). None writes a state element (R115).
-/
namespace Sys2Proof.Machine

/-- `RD CTRL1`, exact (42_readback.md R116). -/
def execRdCtrl1 (s : State) : Host.Outcome State Fault Refusal :=
  .next (s.respond .I ((computeRegister s.ks1).setWidth 32))

/-- `RD CTRL2`, exact (42_readback.md R117). -/
def execRdCtrl2 (s : State) : Host.Outcome State Fault Refusal :=
  .next (s.respond .I ((computeRegister s.ks2).setWidth 32))

/-- `RD STEP`, racy (42_readback.md R118). -/
def execRdStep (s : State) : Host.Outcome State Fault Refusal :=
  .next (s.racyRead (s.stepCtr.setWidth 32) (s.prevStep.setWidth 32))

/-- `RD AMP`, racy: the amplitude at `STEP` or at `PREV_STEP` (42_readback.md R119). -/
def execRdAmp (s : State) : Host.Outcome State Fault Refusal :=
  .next (s.racyRead (BitVec.ofNat 32 (s.cfg.params.amp s.stepCtr.toNat))
    (BitVec.ofNat 32 (s.cfg.params.amp s.prevStep.toNat)))

/-- `RD INC`, racy: the increment at `STEP` or at `PREV_STEP` (42_readback.md R120). -/
def execRdInc (s : State) : Host.Outcome State Fault Refusal :=
  .next (s.racyRead (BitVec.ofNat 32 (s.cfg.params.incAt s.stepCtr.toNat))
    (BitVec.ofNat 32 (s.cfg.params.incAt s.prevStep.toNat)))

/-- `RD PHASE`, racy (42_readback.md R121). -/
def execRdPhase (s : State) : Host.Outcome State Fault Refusal := .next (s.racyRead s.phase s.prevPhase)

/-- `RD STATUS`, exact (42_readback.md R122); reading clears nothing (60_exceptions.md R139). -/
def execRdStatus (s : State) : Host.Outcome State Fault Refusal := .next (s.respond .I (statusWord s))

end Sys2Proof.Machine
end

