-- ==== Sys2Proof/Machine/Dispatch.lean ====
section
/-!
DEFINITION. The dispatch: one arm for each constructor of Instr.
-/
namespace Sys2Proof.Machine

def exec (i : Instr) (s : State) : Host.Outcome State Fault Refusal :=
  match i with
  | .keydown key => Sys2Proof.Machine.execKeydown key s
  | .keyup key => Sys2Proof.Machine.execKeyup key s
  | .sample => Sys2Proof.Machine.execSample s
  | .bufend => Sys2Proof.Machine.execBufend s
  | .rdCtrl1 => Sys2Proof.Machine.execRdCtrl1 s
  | .rdCtrl2 => Sys2Proof.Machine.execRdCtrl2 s
  | .rdStep => Sys2Proof.Machine.execRdStep s
  | .rdAmp => Sys2Proof.Machine.execRdAmp s
  | .rdInc => Sys2Proof.Machine.execRdInc s
  | .rdPhase => Sys2Proof.Machine.execRdPhase s
  | .rdStatus => Sys2Proof.Machine.execRdStatus s

end Sys2Proof.Machine
end

