-- ==== Sys2Proof/Machine/Perform.lean ====
section
/-!
DEFINITION. Performing one event: a command, legal or illegal, or reset.
-/
namespace Sys2Proof.Machine

/-- Perform a command: decode it for its port, and do what it says or the illegal-command outcome (30_encoding.md R67,
60_exceptions.md R135). One step, so it is atomic (20_memory.md R44). -/
def perform (c : Command) (s : State) : Host.Outcome State Fault Refusal :=
  match decode c.port c.word with
  | .ok i => exec i s
  | .error cause => .next (s.illegal cause c.port)

/-- Perform the next event. With none to perform the block holds its state (60_exceptions.md R150). -/
def performNext (s : State) : Host.Outcome State Fault Refusal :=
  match s.input with
  | [] => .next s
  | .command c :: rest => perform c (s.setInput rest)
  | .reset :: rest => .next (s.setInput rest).applyReset

/-- The command that the word of `nbits` numbered bits `w` makes, on the port of its opcode (log entry 8). -/
def tableCommand (nbits w : Nat) : Command := ⟨placementPort (tableWord nbits w), tableWord nbits w⟩

end Sys2Proof.Machine
end

