-- ==== Sys2Proof/Machine/Step.lean ====
section
/-!
DEFINITION. One step of the machine: the next event is performed. And how a single word is put before the machine.
-/
namespace Sys2Proof.Machine

/-- One step (20_memory.md R44, R48). -/
def step (s : State) : Host.Outcome State Fault Refusal := performNext s

/-- The state with a word issued as the very next command, on the port of its opcode; the events already there follow it. -/
def State.withFetchWord (s : State) (nbits w : Nat) : State :=
  s.setInput (.command (tableCommand nbits w) :: s.input)

end Sys2Proof.Machine
end

