-- ==== Sys2Proof/Machine/Assembly.lean ====
section
/-!
DEFINITION. The spec's assembly: what a line stands for, the commands it assembles to, and the reading of a line's text
(30_encoding.md R71, R72).
-/
namespace Sys2Proof.Machine

/-- One line of a program (30_encoding.md R71, R72). -/
inductive AsmLine where
  /-- `<port>: <command>`, on the right port or the wrong one. -/
  | command (p : Port) (i : Instr)
  /-- `<port>: .word <number>`, a raw word. -/
  | raw (p : Port) (w : Word)
  /-- `A: FILL <n>`. -/
  | fill (n : Nat)
deriving DecidableEq, Repr

/-- `FILL n`: n times `SAMPLE`, then one `BUFEND`, on port A (30_encoding.md R72). -/
def fillCommands (n : Nat) : List Command :=
  List.replicate n ⟨.A, encode .sample⟩ ++ [⟨.A, encode .bufend⟩]

/-- The commands of a line. A line that names the wrong port assembles like any other (30_encoding.md R71). -/
def AsmLine.assemble : AsmLine → List Command
  | .command p i => [⟨p, encode i⟩]
  | .raw p w => [⟨p, w⟩]
  | .fill n => fillCommands n

/-- The events of a program, in the order of its lines (30_encoding.md R71). -/
def assembleProgram (ls : List AsmLine) : List Event :=
  (ls.flatMap AsmLine.assemble).map Event.command

/-! ## Reading the text of a line -/

/-- The characters that separate words. -/
def isBlank (c : Char) : Bool := c == ' ' || c == '\t' || c == '\r'

/-- The words of a line, in order; a colon is a word by itself. `cur` is the word being read, its last character first. -/
def lineWords (cur : List Char) : List Char → List (List Char)
  | [] => if cur.isEmpty then [] else [cur.reverse]
  | c :: cs =>
    if isBlank c then (if cur.isEmpty then [] else [cur.reverse]) ++ lineWords [] cs
    else if c == ':' then (if cur.isEmpty then [] else [cur.reverse]) ++ [[':']] ++ lineWords [] cs
    else lineWords (c :: cur) cs

/-- The value of a digit in a base. -/
def digitValue (base : Nat) (c : Char) : Option Nat :=
  let v :=
    if '0' ≤ c ∧ c ≤ '9' then c.toNat - '0'.toNat
    else if 'a' ≤ c ∧ c ≤ 'f' then c.toNat - 'a'.toNat + 10
    else if 'A' ≤ c ∧ c ≤ 'F' then c.toNat - 'A'.toNat + 10
    else base
  if v < base then some v else none

/-- The number that digits spell in a base, continuing from `acc`. -/
def digitsValue (base acc : Nat) : List Char → Option Nat
  | [] => some acc
  | c :: cs =>
    match digitValue base c with
    | some v => digitsValue base (acc * base + v) cs
    | none => none

/-- A number, decimal or 0x-hex (30_encoding.md R71); an underscore only groups digits (00_scope.md R9). -/
def number (cs : List Char) : Option Nat :=
  match cs.filter (· != '_') with
  | [] => none
  | ['0', 'x'] => none
  | '0' :: 'x' :: ds => digitsValue 16 0 ds
  | ds => digitsValue 10 0 ds

/-- A number of at most `bits` bits. -/
def boundedNumber (bits : Nat) (cs : List Char) : Option (BitVec bits) :=
  match number cs with
  | some v => if v < 2 ^ bits then some (BitVec.ofNat bits v) else none
  | none => none

/-- The port a word names. -/
def portName (cs : List Char) : Option Port :=
  if cs = "I".toList then some .I else if cs = "A".toList then some .A else none

/-- The readback that `RD <reg>` names (30_encoding.md R71). -/
def registerName (cs : List Char) : Option Instr :=
  if cs = "CTRL1".toList then some .rdCtrl1
  else if cs = "CTRL2".toList then some .rdCtrl2
  else if cs = "STEP".toList then some .rdStep
  else if cs = "AMP".toList then some .rdAmp
  else if cs = "INC".toList then some .rdInc
  else if cs = "PHASE".toList then some .rdPhase
  else if cs = "STATUS".toList then some .rdStatus
  else none

/-- A line after its port, from its words. -/
def bodyLine (p : Port) : List (List Char) → Option AsmLine
  | [m] =>
    if m = "SAMPLE".toList then some (.command p .sample)
    else if m = "BUFEND".toList then some (.command p .bufend)
    else none
  | [m, arg] =>
    if m = "KEYDOWN".toList then (boundedNumber 16 arg).map fun k => .command p (.keydown k)
    else if m = "KEYUP".toList then (boundedNumber 16 arg).map fun k => .command p (.keyup k)
    else if m = "RD".toList then (registerName arg).map fun i => .command p i
    else if m = ".word".toList then (boundedNumber 32 arg).map fun w => .raw p w
    else if m = "FILL".toList ∧ p = .A then (number arg).map fun n => .fill n
    else none
  | _ => none

/-- The text of one line: at most one line of the program, or none where it does not read. Text after `;` is a comment, and
a line with nothing before it is empty (30_encoding.md R71). -/
def readLine (cs : List Char) : Option (List AsmLine) :=
  match lineWords [] (cs.takeWhile (· != ';')) with
  | [] => some []
  | p :: [':'] :: body =>
    match portName p with
    | some q => (bodyLine q body).map fun l => [l]
    | none => none
  | _ => none

/-- The text of a program, one line each. -/
def readProgram : List (List Char) → Option (List AsmLine)
  | [] => some []
  | l :: ls =>
    match readLine l, readProgram ls with
    | some xs, some ys => some (xs ++ ys)
    | _, _ => none

end Sys2Proof.Machine
end

