-- ==== Sys2Proof/Safety.lean ====
section
/-!
DEFINITION. What claims about runs are stated in: faulted states, the invariant of reachable states, whole runs, and what
each port sees of the events.
-/
namespace Sys2Proof

/-! ## What an event is to each port -/

/-- Whether an event acts on a port: its commands, and reset, which acts on both (60_exceptions.md R148). -/
def Event.actsOn (p : Port) : Event → Bool
  | .command c => c.port == p
  | .reset => true

/-- The events that act on a port, in order (20_memory.md R45). -/
def portEvents (p : Port) (es : List Event) : List Event := es.filter (Event.actsOn p)

/-- The cause and the port of an event that is an illegal command, and none for any other event (30_encoding.md R67). -/
def Event.illegality : Event → Option (Cause × Port)
  | .command c =>
    match decode c.port c.word with
    | .ok _ => none
    | .error cause => some (cause, c.port)
  | .reset => none

end Sys2Proof

namespace Sys2Proof.Machine

/-! ## States and runs -/

/-- A faulted state: `ERR` is 1 (60_exceptions.md R140). A claim about a run takes "not faulted at its end" as a premise. -/
abbrev State.Faulted (s : State) : Prop := s.err = 1#1

/-- What holds in every reachable state: the ranges of 10_state.md R21 and R36, and the status fields' relation. -/
abbrev State.Inv (s : State) : Prop :=
  s.phase.toNat < s.cfg.params.one ∧ s.prevPhase.toNat < s.cfg.params.one ∧
    s.stepCtr.toNat < s.cfg.params.n ∧ s.prevStep.toNat < s.cfg.params.n ∧
    (s.err = 0#1 ↔ s.cause = 0#4) ∧ (s.err = 0#1 → s.eport = 0#1) ∧ s.cause.toNat ≤ 4

/-- The run of a state: every event it has to perform, one step each (70_reset_and_hazards.md R168). -/
def State.finish (s : State) : Host.Outcome State Fault Refusal := Host.Core.run core s.input.length s

/-! ## What a step leaves as it was, and what it answers -/

/-- The encoder's elements are unchanged. -/
abbrev KeysKept (s t : State) : Prop := t.ks1 = s.ks1 ∧ t.ks2 = s.ks2

/-- The phase accumulator and its shadow are unchanged. -/
abbrev PhaseKept (s t : State) : Prop := t.phase = s.phase ∧ t.prevPhase = s.prevPhase

/-- The step counter and its shadow are unchanged. -/
abbrev StepKept (s t : State) : Prop := t.stepCtr = s.stepCtr ∧ t.prevStep = s.prevStep

/-- The status fields are unchanged. -/
abbrev StatusKept (s t : State) : Prop := t.err = s.err ∧ t.cause = s.cause ∧ t.eport = s.eport

/-- The configuration and the events still to be performed are unchanged. -/
abbrev OutsideKept (s t : State) : Prop := t.cfg = s.cfg ∧ t.input = s.input

/-- One response word was given, on port I. -/
abbrev AnsweredI (s t : State) (w : Word) : Prop := t.respI = w :: s.respI ∧ t.respA = s.respA

/-- One response word was given, on port A. -/
abbrev AnsweredA (s t : State) (w : Word) : Prop := t.respI = s.respI ∧ t.respA = w :: s.respA

/-- One response word was given, on the port named. -/
abbrev Answered (p : Port) (s t : State) (w : Word) : Prop :=
  match p with
  | .I => AnsweredI s t w
  | .A => AnsweredA s t w

/-- Every bit of a word is the same bit of one of two candidates (20_memory.md R46). -/
abbrev DrawnFrom (r cur prev : Word) : Prop :=
  ∀ k : Fin 32, r.getLsbD k.val = cur.getLsbD k.val ∨ r.getLsbD k.val = prev.getLsbD k.val

/-! ## States alike in what one port uses -/

/-- Two states alike in what port A's commands read, write and answer: the oscillator's elements and port A's responses. -/
abbrev SameOnA (s t : State) : Prop :=
  s.cfg = t.cfg ∧ s.phase = t.phase ∧ s.stepCtr = t.stepCtr ∧ s.prevPhase = t.prevPhase ∧ s.prevStep = t.prevStep ∧
    s.respA = t.respA

/-- Two states alike in the encoder's elements and in the configuration. -/
abbrev SameKeys (s t : State) : Prop := s.cfg = t.cfg ∧ s.ks1 = t.ks1 ∧ s.ks2 = t.ks2

end Sys2Proof.Machine
end

