-- ==== Sys2Proof/Certificates/Slice0/Obligations.lean ====
section
/-!
DEFINITION. The statements for the provers. Each says which rule of spec/ it formalises.
-/
open Sys2Proof Sys2Proof.Machine

/-! ## Encoding and decoding -/

/-- Round trip: the word of a command decodes, on the port it is well formed on, to that command (30_encoding.md section 2). -/
def Obligations.DecodeOfEncode : Prop :=
  ∀ (i : Instr) (p : Port), i.wellFormedOn p = true → decode p (encode i) = .ok i

/-- R66: every word on each port is the word of exactly one command, or illegal and the word of none. -/
def Obligations.EveryWordIsOneCommandOrIllegal : Prop :=
  ∀ (p : Port) (w : Word),
    (∃ i, decode p w = .ok i ∧ ∀ j : Instr, (j.port = p ∧ encode j = w) ↔ j = i) ∨
      (∃ c, decode p w = .error c ∧ ∀ j : Instr, ¬(j.port = p ∧ encode j = w))

/-- R67, with the fields of the word as numbers: the checks in their order, and then the command. -/
def Obligations.DecodeFollowsTheChecks : Prop :=
  ∀ (p : Port) (w : Word),
    decode p w =
      (let op := w.toNat / 2 ^ 28
      if op = 0 ∨ 5 ≤ op then .error .reservedOpcode
      else if ((op = 1 ∨ op = 4) ∧ p = .A) ∨ ((op = 2 ∨ op = 3) ∧ p = .I) then .error .wrongPort
      else if op = 1 ∧ w.toNat / 2 ^ 17 % 2 ^ 11 ≠ 0 then .error .reservedBits
      else if op = 4 ∧ w.toNat / 2 ^ 8 % 2 ^ 20 ≠ 0 then .error .reservedBits
      else if (op = 2 ∨ op = 3) ∧ w.toNat % 2 ^ 28 ≠ 0 then .error .reservedBits
      else if op = 4 ∧ 6 < w.toNat % 2 ^ 8 then .error .reservedSelector
      else if op = 1 ∧ w.toNat / 2 ^ 16 % 2 = 1 then .ok (.keydown (BitVec.ofNat 16 (w.toNat % 2 ^ 16)))
      else if op = 1 then .ok (.keyup (BitVec.ofNat 16 (w.toNat % 2 ^ 16)))
      else if op = 2 then .ok .sample
      else if op = 3 then .ok .bufend
      else if w.toNat % 2 ^ 8 = 0 then .ok .rdCtrl1
      else if w.toNat % 2 ^ 8 = 1 then .ok .rdCtrl2
      else if w.toNat % 2 ^ 8 = 2 then .ok .rdStep
      else if w.toNat % 2 ^ 8 = 3 then .ok .rdAmp
      else if w.toNat % 2 ^ 8 = 4 then .ok .rdInc
      else if w.toNat % 2 ^ 8 = 5 then .ok .rdPhase
      else .ok .rdStatus)

/-- A few words of the spec's examples decode to the commands they stand for. -/
def Obligations.ExampleWordsDecode : Prop :=
  decode .I 0x10010014#32 = .ok (.keydown 0x14#16) ∧ decode .I 0x10000014#32 = .ok (.keyup 0x14#16) ∧
    decode .A 0x20000000#32 = .ok .sample ∧ decode .A 0x30000000#32 = .ok .bufend ∧
    decode .I 0x40000006#32 = .ok .rdStatus

/-- R71's wrong-port line: it assembles to the command's word, which is illegal with cause 2 when performed. -/
def Obligations.WrongPortLineIsIllegalWithCauseTwo : Prop :=
  ∀ (p : Port) (i : Instr) (s : State) (rest : List Event), p ≠ i.port →
    s.input = assembleProgram [.command p i] ++ rest → s.err = 0#1 →
      ∃ t, step s = .next t ∧ t.err = 1#1 ∧ t.cause = 2#4 ∧ t.eport = portBit p ∧ t.input = rest ∧
        KeysKept s t ∧ PhaseKept s t ∧ StepKept s t ∧ Answered p s t 0#32

/-! ## Steps -/

/-- A step runs the decoded command: the word next to be performed is taken off the input, and its command is executed. -/
def Obligations.StepRunsTheDecodedCommand : Prop :=
  ∀ (s : State) (c : Command) (rest : List Event) (i : Instr),
    s.input = .command c :: rest → decode c.port c.word = .ok i → step s = exec i (s.setInput rest)

/-- R135: an illegal command writes the status if it is the first, answers 0, and does nothing else. -/
def Obligations.IllegalCommandRecordsOnlyTheFirst : Prop :=
  ∀ (s : State) (c : Command) (rest : List Event) (cause : Cause),
    s.input = .command c :: rest → decode c.port c.word = .error cause →
      ∃ t, step s = .next t ∧
        (s.err = 0#1 → t.err = 1#1 ∧
          t.cause.toNat = (match cause with
            | .reservedOpcode => 1
            | .wrongPort => 2
            | .reservedBits => 3
            | .reservedSelector => 4) ∧
          t.eport.toNat = (match c.port with
            | .I => 0
            | .A => 1)) ∧
        (s.err ≠ 0#1 → StatusKept s t) ∧
        KeysKept s t ∧ PhaseKept s t ∧ StepKept s t ∧ t.cfg = s.cfg ∧ t.input = rest ∧
        Answered c.port s t 0#32

/-- R156: after a reset event every element has its reset value, the projections are 0, and every readback is exact. -/
def Obligations.ResetEventLeavesTheResetValues : Prop :=
  ∀ (s : State) (rest : List Event), s.input = .reset :: rest →
    ∃ t, step s = .next t ∧
      t.ks1 = 0#8 ∧ t.ks2 = 0#8 ∧ t.phase = 0#32 ∧ t.stepCtr = 0#16 ∧ t.err = 0#1 ∧ t.cause = 0#4 ∧ t.eport = 0#1 ∧
      t.prevPhase = 0#32 ∧ t.prevStep = 0#16 ∧
      computeRegister t.ks1 = 0#8 ∧ computeRegister t.ks2 = 0#8 ∧ t.ampNow = 0 ∧
      t.incNow = t.cfg.params.incAt 0 ∧ t.input = rest ∧
      (∀ i ∈ [Instr.rdCtrl1, .rdCtrl2, .rdStep, .rdAmp, .rdPhase, .rdStatus],
        ∃ u, exec i t = .next u ∧ AnsweredI t u 0#32) ∧
      (∃ u, exec .rdInc t = .next u ∧ AnsweredI t u (BitVec.ofNat 32 (t.cfg.params.incAt 0)))

/-- The state after reset has every element of R21 at the value of R156. -/
def Obligations.ResetStateHasTheResetValues : Prop :=
  State.reset.ks1 = 0#8 ∧ State.reset.ks2 = 0#8 ∧ State.reset.phase = 0#32 ∧ State.reset.stepCtr = 0#16 ∧
    State.reset.err = 0#1 ∧ State.reset.cause = 0#4 ∧ State.reset.eport = 0#1 ∧ State.reset.prevPhase = 0#32 ∧
    State.reset.prevStep = 0#16

/-- With no event to perform the block holds its state (60_exceptions.md R150, first half). -/
def Obligations.NothingToPerformHoldsTheState : Prop := ∀ s : State, s.input = [] → step s = .next s

/-- Every event is performed: no step faults or refuses (70_reset_and_hazards.md R167, 93_implementation_defined.md). -/
def Obligations.EveryStepGivesANextState : Prop := ∀ s : State, ∃ t, step s = .next t

/-- Every command, legal or illegal, gives exactly one response word, on its own port; it is 0 for an illegal command, a
key transition and a buffer's end, and fits 16 bits for a sample (30_encoding.md R68). -/
def Obligations.EveryCommandAnswersOnceOnItsPort : Prop :=
  ∀ (s t : State) (c : Command) (rest : List Event), s.input = .command c :: rest → step s = .next t →
    ∃ w, Answered c.port s t w ∧
      (∀ cause, decode c.port c.word = .error cause → w = 0#32) ∧
      (∀ key, decode c.port c.word = .ok (.keydown key) ∨ decode c.port c.word = .ok (.keyup key) → w = 0#32) ∧
      (decode c.port c.word = .ok .bufend → w = 0#32) ∧
      (decode c.port c.word = .ok .sample → w.toNat < 2 ^ 16)

/-! ## The encoder -/

/-- R76: `KEYDOWN`, its word and port, where its word is illegal, and its effect. -/
def Obligations.KeydownSetsEveryMatchingEntry : Prop :=
  ∀ (key : KeyCode) (s : State),
    encode (.keydown key) = (0x10010000#32 ||| key.setWidth 32) ∧
    decode .I (encode (.keydown key)) = .ok (.keydown key) ∧
    decode .A (encode (.keydown key)) = .error .wrongPort ∧
    (∀ w : Word, w.toNat / 2 ^ 28 = 1 → w.toNat / 2 ^ 17 % 2 ^ 11 ≠ 0 → decode .I w = .error .reservedBits) ∧
    ∃ t, exec (.keydown key) s = .next t ∧
      (∀ b : Fin 8, t.ks1.getLsbD b.val = (if s.cfg.params.bind1.get b = key then true else s.ks1.getLsbD b.val)) ∧
      (∀ b : Fin 8, t.ks2.getLsbD b.val = (if s.cfg.params.bind2.get b = key then true else s.ks2.getLsbD b.val)) ∧
      computeRegister t.ks1 = t.ks1 ∧ computeRegister t.ks2 = t.ks2 ∧
      PhaseKept s t ∧ StepKept s t ∧ StatusKept s t ∧ OutsideKept s t ∧ AnsweredI s t 0#32

/-- R77: `KEYUP`. -/
def Obligations.KeyupClearsEveryMatchingEntry : Prop :=
  ∀ (key : KeyCode) (s : State),
    encode (.keyup key) = (0x10000000#32 ||| key.setWidth 32) ∧
    decode .I (encode (.keyup key)) = .ok (.keyup key) ∧
    decode .A (encode (.keyup key)) = .error .wrongPort ∧
    (∀ w : Word, w.toNat / 2 ^ 28 = 1 → w.toNat / 2 ^ 17 % 2 ^ 11 ≠ 0 → decode .I w = .error .reservedBits) ∧
    ∃ t, exec (.keyup key) s = .next t ∧
      (∀ b : Fin 8, t.ks1.getLsbD b.val = (if s.cfg.params.bind1.get b = key then false else s.ks1.getLsbD b.val)) ∧
      (∀ b : Fin 8, t.ks2.getLsbD b.val = (if s.cfg.params.bind2.get b = key then false else s.ks2.getLsbD b.val)) ∧
      computeRegister t.ks1 = t.ks1 ∧ computeRegister t.ks2 = t.ks2 ∧
      PhaseKept s t ∧ StepKept s t ∧ StatusKept s t ∧ OutsideKept s t ∧ AnsweredI s t 0#32

/-- R79: a transition of a key that matches no button of a controller leaves that controller's KeyState. -/
def Obligations.ControllersAreIndependent : Prop :=
  ∀ (key : KeyCode) (i : Instr) (s t : State), i = .keydown key ∨ i = .keyup key → exec i s = .next t →
    ((∀ b : Fin 8, s.cfg.params.bind1.get b ≠ key) → t.ks1 = s.ks1) ∧
      ((∀ b : Fin 8, s.cfg.params.bind2.get b ≠ key) → t.ks2 = s.ks2)

/-- R80, the effect: a key bound to no button is accepted, answers 0 and leaves the rest of the state as it was. -/
def Obligations.UnboundKeyChangesNothing : Prop :=
  ∀ (key : KeyCode) (i : Instr) (s : State), i = .keydown key ∨ i = .keyup key →
    (∀ b : Fin 8, s.cfg.params.bind1.get b ≠ key ∧ s.cfg.params.bind2.get b ≠ key) →
      exec i s = .next (s.respond .I 0#32)

/-- R83: a transition issued twice in a row leaves the same state elements as issued once. -/
def Obligations.KeyTransitionsAreIdempotent : Prop :=
  ∀ (key : KeyCode) (i : Instr) (s t u : State), i = .keydown key ∨ i = .keyup key →
    exec i s = .next t → exec i t = .next u →
      KeysKept t u ∧ PhaseKept t u ∧ StepKept t u ∧ StatusKept t u ∧ OutsideKept t u

/-- R32: the controller register is the OR of the flags 2^b of the pressed buttons, in whatever order (and however often) they
are listed, and it equals the KeyState. -/
def Obligations.ControllerRegisterIsTheOrOfPressedFlags : Prop :=
  ∀ (ks : BitVec 8) (order : List Button), (∀ btn, btn ∈ order ↔ pressed ks btn = true) →
    (∀ btn : Button, btn.flag.toNat = 2 ^ btn.index.val) ∧
      computeRegister ks = order.foldl (fun r btn => r ||| btn.flag) 0#8 ∧ computeRegister ks = ks

/-- Over any run of key transitions, an entry holds what the LAST transition matching its binding said, and what it held
before where none matches (40_encoder.md section 4). -/
def Obligations.KeyStateIsTheLastMatchingTransition : Prop :=
  ∀ (es : List (KeyCode × Bool)) (s : State),
    s.input = es.map (fun e => .command ⟨.I, encode (if e.2 then .keydown e.1 else .keyup e.1)⟩) →
      ∃ t, s.finish = .next t ∧
        (∀ b : Fin 8, t.ks1.getLsbD b.val =
          match es.reverse.find? (fun e => e.1 == s.cfg.params.bind1.get b) with
          | some e => e.2
          | none => s.ks1.getLsbD b.val) ∧
        (∀ b : Fin 8, t.ks2.getLsbD b.val =
          match es.reverse.find? (fun e => e.1 == s.cfg.params.bind2.get b) with
          | some e => e.2
          | none => s.ks2.getLsbD b.val)

/-! ## The oscillator -/

/-- R92: `SAMPLE`, its word and port, where its word is illegal, and its effect, with the increment and the amplitude of the step
from the table and the formula. -/
def Obligations.SampleEmitsTheLevelAndAdvancesThePhase : Prop :=
  ∀ (s : State) (inc : Nat), s.cfg.params.inc[s.stepCtr.toNat]? = some inc →
    encode .sample = 0x20000000#32 ∧ decode .A 0x20000000#32 = .ok .sample ∧
    decode .I 0x20000000#32 = .error .wrongPort ∧
    (∀ w : Word, w.toNat / 2 ^ 28 = 2 → w.toNat % 2 ^ 28 ≠ 0 → decode .A w = .error .reservedBits) ∧
    ∃ t w, exec .sample s = .next t ∧
      t.phase.toNat = (if 2 ^ s.cfg.params.phaseW ≤ s.phase.toNat + inc
        then s.phase.toNat + inc - 2 ^ s.cfg.params.phaseW else s.phase.toNat + inc) ∧
      t.prevPhase = s.phase ∧
      AnsweredA s t w ∧ w.toNat < 2 ^ 16 ∧
      (w.setWidth 16).toInt =
        (if s.phase.toNat + inc < 2 ^ (s.cfg.params.phaseW - 1)
          then ((s.cfg.params.maxAmp * s.stepCtr.toNat / (s.cfg.params.n - 1) : Nat) : Int)
          else -((s.cfg.params.maxAmp * s.stepCtr.toNat / (s.cfg.params.n - 1) : Nat) : Int)) ∧
      KeysKept s t ∧ StepKept s t ∧ StatusKept s t ∧ OutsideKept s t

/-- R93: after a `SAMPLE` the phase is below ONE and has changed, and ONE was subtracted from the sum at most once. -/
def Obligations.PhaseStaysBelowOneAndMoves : Prop :=
  ∀ (s : State) (inc : Nat), s.Inv → s.cfg.params.inc[s.stepCtr.toNat]? = some inc →
    ∃ t, exec .sample s = .next t ∧ t.phase.toNat < 2 ^ s.cfg.params.phaseW ∧ t.phase ≠ s.phase ∧
      (t.phase.toNat = s.phase.toNat + inc ∨ t.phase.toNat + 2 ^ s.cfg.params.phaseW = s.phase.toNat + inc)

/-- R94: a `SAMPLE` returns +a exactly when the pre-wrap sum is below HALF, and -a otherwise; so the wrap sample is -a. -/
def Obligations.LevelIsTestedBeforeTheWrap : Prop :=
  ∀ (s : State) (inc : Nat), s.Inv → s.cfg.params.inc[s.stepCtr.toNat]? = some inc →
    ∃ t w, exec .sample s = .next t ∧ AnsweredA s t w ∧
      (s.phase.toNat + inc < 2 ^ (s.cfg.params.phaseW - 1) → (w.setWidth 16).toInt = (s.ampNow : Int)) ∧
      (2 ^ (s.cfg.params.phaseW - 1) ≤ s.phase.toNat + inc → (w.setWidth 16).toInt = -(s.ampNow : Int)) ∧
      (t.phase.toNat < s.phase.toNat → (w.setWidth 16).toInt = -(s.ampNow : Int))

/-- R95: `BUFEND`, its word and port, where its word is illegal, and its effect. -/
def Obligations.BufendAdvancesTheStep : Prop :=
  ∀ s : State,
    encode .bufend = 0x30000000#32 ∧ decode .A 0x30000000#32 = .ok .bufend ∧
    decode .I 0x30000000#32 = .error .wrongPort ∧
    (∀ w : Word, w.toNat / 2 ^ 28 = 3 → w.toNat % 2 ^ 28 ≠ 0 → decode .A w = .error .reservedBits) ∧
    ∃ t, exec .bufend s = .next t ∧
      t.stepCtr.toNat = (s.stepCtr.toNat + 1) % s.cfg.params.n ∧ t.prevStep = s.stepCtr ∧
      AnsweredA s t 0#32 ∧ KeysKept s t ∧ PhaseKept s t ∧ StatusKept s t ∧ OutsideKept s t

/-- The sweep is cyclic: k buffer ends advance the step by k modulo N and leave the phase (41_oscillator.md section 3). -/
def Obligations.SweepIsCyclic : Prop :=
  ∀ (s : State) (k : Nat), s.stepCtr.toNat < s.cfg.params.n →
    s.input = List.replicate k (.command ⟨.A, 0x30000000#32⟩) →
      ∃ t, s.finish = .next t ∧ t.stepCtr.toNat = (s.stepCtr.toNat + k) % s.cfg.params.n ∧ t.phase = s.phase

/-- R98: any step that performs neither a `BUFEND` nor a reset keeps the increment and the amplitude in force. -/
def Obligations.BufferKeepsIncrementAndAmplitude : Prop :=
  ∀ (s t : State) (e : Event) (rest : List Event), s.input = e :: rest → e ≠ .reset →
    (∀ c, e = .command c → decode c.port c.word ≠ .ok .bufend) → step s = .next t →
      t.incNow = s.incNow ∧ t.ampNow = s.ampNow

/-- The phase is continuous across a buffer boundary: the first sample after a `BUFEND` adds the new increment to the last
phase (41_oscillator.md R99). -/
def Obligations.PhaseRunsOnAcrossBuffers : Prop :=
  ∀ (s : State) (inc : Nat), s.Inv → s.cfg.params.inc[(s.stepCtr.toNat + 1) % s.cfg.params.n]? = some inc →
    ∃ t u, exec .bufend s = .next t ∧ exec .sample t = .next u ∧
      u.phase.toNat = (s.phase.toNat + inc) % 2 ^ s.cfg.params.phaseW

/-- R103: from reset, every `SAMPLE` before the first `BUFEND` answers 0 and advances the phase by INC[0], whatever port I
does meanwhile. -/
def Obligations.FirstBufferIsSilent : Prop :=
  ∀ (c : Config) (k inc0 : Nat) (es : List Event), c.params.inc[0]? = some inc0 →
    portEvents .A es = List.replicate k (.command ⟨.A, 0x20000000#32⟩) →
      ∃ t, ({ State.reset with
          cfg := c
          input := es } : State).finish = .next t ∧
        t.respA = List.replicate k 0#32 ∧ t.phase.toNat = k * inc0 % 2 ^ c.params.phaseW

/-- `FILL n` makes one buffer (30_encoding.md R72), whatever port I does meanwhile: its n samples are the levels of the sums
(phase + k * inc) mod ONE + inc, the phase has advanced by n increments modulo ONE, and the step by one. -/
def Obligations.FillMakesOneBuffer : Prop :=
  ∀ (s : State) (n inc : Nat), s.Inv → s.cfg.params.inc[s.stepCtr.toNat]? = some inc →
    portEvents .A s.input = assembleProgram [.fill n] →
      ∃ t, s.finish = .next t ∧
        t.phase.toNat = (s.phase.toNat + n * inc) % 2 ^ s.cfg.params.phaseW ∧
        t.stepCtr.toNat = (s.stepCtr.toNat + 1) % s.cfg.params.n ∧ t.prevStep = s.stepCtr ∧
        t.respA = 0#32 :: ((List.range n).map fun k => sampleWord
          (if (s.phase.toNat + k * inc) % 2 ^ s.cfg.params.phaseW + inc < 2 ^ (s.cfg.params.phaseW - 1)
            then (s.ampNow : Int) else -(s.ampNow : Int))).reverse ++ s.respA

/-- The amplitude ramp: 0 at step 0, MAX_AMP at step N-1, never above MAX_AMP, never descending (41_oscillator.md R100). -/
def Obligations.AmplitudeRampRisesToMaximum : Prop :=
  ∀ c : Config, c.params.amp 0 = 0 ∧ c.params.amp (c.params.n - 1) = c.params.maxAmp ∧
    (∀ s, s < c.params.n → c.params.amp s ≤ c.params.maxAmp) ∧
    (∀ s s', s ≤ s' → c.params.amp s ≤ c.params.amp s')

/-- Every sample is in -32767..32767, so the pattern 0x8000 never appears in a response (41_oscillator.md R100). -/
def Obligations.SampleNeverReadsAsTheLowestPattern : Prop :=
  ∀ s : State, s.Inv → ∃ t w, exec .sample s = .next t ∧ AnsweredA s t w ∧
    -32767 ≤ (w.setWidth 16).toInt ∧ (w.setWidth 16).toInt ≤ 32767 ∧ w ≠ 0x8000#32

/-! ## The readbacks -/

/-- R116: `RD CTRL1`. -/
def Obligations.RdCtrl1ReadsControllerOne : Prop :=
  ∀ s : State, encode .rdCtrl1 = 0x40000000#32 ∧ decode .I 0x40000000#32 = .ok .rdCtrl1 ∧
    decode .A 0x40000000#32 = .error .wrongPort ∧
    ∃ t, exec .rdCtrl1 s = .next t ∧ AnsweredI s t (s.ks1.setWidth 32) ∧
      KeysKept s t ∧ PhaseKept s t ∧ StepKept s t ∧ StatusKept s t ∧ OutsideKept s t

/-- R117: `RD CTRL2`. -/
def Obligations.RdCtrl2ReadsControllerTwo : Prop :=
  ∀ s : State, encode .rdCtrl2 = 0x40000001#32 ∧ decode .I 0x40000001#32 = .ok .rdCtrl2 ∧
    decode .A 0x40000001#32 = .error .wrongPort ∧
    ∃ t, exec .rdCtrl2 s = .next t ∧ AnsweredI s t (s.ks2.setWidth 32) ∧
      KeysKept s t ∧ PhaseKept s t ∧ StepKept s t ∧ StatusKept s t ∧ OutsideKept s t

/-- R118: `RD STEP`; each bit of the answer is of `STEP` or of `PREV_STEP`, whatever the draw. -/
def Obligations.RdStepDrawsFromStepAndItsShadow : Prop :=
  ∀ s : State, encode .rdStep = 0x40000002#32 ∧ decode .I 0x40000002#32 = .ok .rdStep ∧
    decode .A 0x40000002#32 = .error .wrongPort ∧
    ∃ t r, exec .rdStep s = .next t ∧ AnsweredI s t r ∧
      DrawnFrom r (s.stepCtr.setWidth 32) (s.prevStep.setWidth 32) ∧ r.toNat < 2 ^ 16 ∧
      KeysKept s t ∧ PhaseKept s t ∧ StepKept s t ∧ StatusKept s t ∧ OutsideKept s t

/-- R119: `RD AMP`; each bit of the answer is of the amplitude at `STEP` or at `PREV_STEP`, whatever the draw. -/
def Obligations.RdAmpDrawsFromTwoAmplitudes : Prop :=
  ∀ s : State, encode .rdAmp = 0x40000003#32 ∧ decode .I 0x40000003#32 = .ok .rdAmp ∧
    decode .A 0x40000003#32 = .error .wrongPort ∧
    ∃ t r, exec .rdAmp s = .next t ∧ AnsweredI s t r ∧
      DrawnFrom r (BitVec.ofNat 32 (s.cfg.params.maxAmp * s.stepCtr.toNat / (s.cfg.params.n - 1)))
        (BitVec.ofNat 32 (s.cfg.params.maxAmp * s.prevStep.toNat / (s.cfg.params.n - 1))) ∧
      KeysKept s t ∧ PhaseKept s t ∧ StepKept s t ∧ StatusKept s t ∧ OutsideKept s t

/-- R120: `RD INC`; each bit of the answer is of the increment at `STEP` or at `PREV_STEP`, whatever the draw. -/
def Obligations.RdIncDrawsFromTwoIncrements : Prop :=
  ∀ (s : State) (cur prev : Nat), s.cfg.params.inc[s.stepCtr.toNat]? = some cur →
    s.cfg.params.inc[s.prevStep.toNat]? = some prev →
    encode .rdInc = 0x40000004#32 ∧ decode .I 0x40000004#32 = .ok .rdInc ∧
    decode .A 0x40000004#32 = .error .wrongPort ∧
    ∃ t r, exec .rdInc s = .next t ∧ AnsweredI s t r ∧
      DrawnFrom r (BitVec.ofNat 32 cur) (BitVec.ofNat 32 prev) ∧
      KeysKept s t ∧ PhaseKept s t ∧ StepKept s t ∧ StatusKept s t ∧ OutsideKept s t

/-- R121: `RD PHASE`; each bit of the answer is of `PHASE` or of `PREV_PHASE`, whatever the draw. -/
def Obligations.RdPhaseDrawsFromPhaseAndItsShadow : Prop :=
  ∀ s : State, encode .rdPhase = 0x40000005#32 ∧ decode .I 0x40000005#32 = .ok .rdPhase ∧
    decode .A 0x40000005#32 = .error .wrongPort ∧
    ∃ t r, exec .rdPhase s = .next t ∧ AnsweredI s t r ∧ DrawnFrom r s.phase s.prevPhase ∧
      (s.Inv → r.toNat < 2 ^ s.cfg.params.phaseW) ∧
      KeysKept s t ∧ PhaseKept s t ∧ StepKept s t ∧ StatusKept s t ∧ OutsideKept s t

/-- R122: `RD STATUS` reads ERR in bit 0, CAUSE in bits 7..4 and EPORT in bit 8, and clears nothing. -/
def Obligations.RdStatusReadsTheStatusFields : Prop :=
  ∀ s : State, encode .rdStatus = 0x40000006#32 ∧ decode .I 0x40000006#32 = .ok .rdStatus ∧
    decode .A 0x40000006#32 = .error .wrongPort ∧
    ∃ t w, exec .rdStatus s = .next t ∧ AnsweredI s t w ∧
      w.toNat = s.err.toNat + 2 ^ 4 * s.cause.toNat + 2 ^ 8 * s.eport.toNat ∧
      KeysKept s t ∧ PhaseKept s t ∧ StepKept s t ∧ StatusKept s t ∧ OutsideKept s t

/-- R124: a racy read never sets a bit that both candidates have clear; so in a state that meets the invariant the fields the map
leaves out read 0, bits 31..16 of STEP and AMP and bits 31..PHASE_W of INC and PHASE. -/
def Obligations.TornReadsKeepConstantZeros : Prop :=
  (∀ (cur prev : Word) (s : State) (k : Nat), cur.getLsbD k = false → prev.getLsbD k = false →
    ∃ r, (s.racyRead cur prev).respI = r :: s.respI ∧ r.getLsbD k = false) ∧
  (∀ (s : State) (i : Instr) (bits : Nat), s.Inv →
    (i, bits) ∈ [(Instr.rdStep, 16), (.rdAmp, 16), (.rdInc, s.cfg.params.phaseW), (.rdPhase, s.cfg.params.phaseW)] →
      ∃ t r, exec i s = .next t ∧ AnsweredI s t r ∧ r.toNat < 2 ^ bits)

/-- The draw admits every mixture: any word each of whose bits is of one candidate or of the other is the draw under some
mask (20_memory.md R46). -/
def Obligations.DrawAdmitsEveryMixture : Prop :=
  ∀ r cur prev : Word, DrawnFrom r cur prev → ∃ mask, drawBits mask cur prev = r

/-! ## Whole-machine rules -/

/-- R37: which command writes which element. -/
def Obligations.OnlyTheNamedCommandsWriteAnElement : Prop :=
  ∀ (s t : State) (c : Command) (rest : List Event), s.input = .command c :: rest → step s = .next t →
    ((∃ key, decode c.port c.word = .ok (.keydown key) ∨ decode c.port c.word = .ok (.keyup key)) ∨ KeysKept s t) ∧
    (decode c.port c.word = .ok .sample ∨ PhaseKept s t) ∧
    (decode c.port c.word = .ok .bufend ∨ StepKept s t) ∧
    ((∃ cause, decode c.port c.word = .error cause) ∨ StatusKept s t) ∧
    t.cfg = s.cfg

/-- Port I alone writes the KeyStates; port A alone writes the phase, the step and their shadows (60_exceptions.md R146). -/
def Obligations.EachPortWritesOnlyItsOwnElements : Prop :=
  ∀ (s t : State) (c : Command) (rest : List Event), s.input = .command c :: rest → step s = .next t →
    (c.port = .A → KeysKept s t) ∧ (c.port = .I → PhaseKept s t ∧ StepKept s t)

/-- No step changes the configuration (70_reset_and_hazards.md section 2). That a reset event keeps it too is the model's choice
(log entry 12). -/
def Obligations.ConfigurationIsFixed : Prop := ∀ s t : State, step s = .next t → t.cfg = s.cfg

/-- R30: the parameters that make a configuration are exactly those in the ranges of R7 that meet R27 (a), (b) and (c), and the
configuration of every state does. -/
def Obligations.IllegalConfigurationsAreRefused : Prop :=
  (∀ p : Params, (∃ c, Config.ofParams p = some c) ↔
    (2 ≤ p.phaseW ∧ p.phaseW ≤ 32 ∧ 2 ≤ p.n ∧ p.n ≤ 65536 ∧ p.maxAmp ≤ 32767 ∧ p.inc.length = p.n ∧
      (∀ s v : Nat, p.inc[s]? = some v → 1 ≤ v ∧ v < 2 ^ p.phaseW) ∧
      (∀ s v v' : Nat, p.inc[s]? = some v → p.inc[s + 12]? = some v' → v' = 2 * v) ∧
      (∀ s v v' : Nat, p.inc[s]? = some v → p.inc[s + 1]? = some v' → v ≤ v'))) ∧
  (∀ s : State, ∃ c, Config.ofParams s.cfg.params = some c ∧ c = s.cfg)

/-- R28: for any positive reals BASE_FREQ and SAMPLE_RATE there is exactly one reference table of N entries; it is the floor of
the real formula for s < 12 and doubles with each octave. -/
def Obligations.ReferenceTableIsTheFloorAndDoubles : Prop :=
  ∀ (baseFreq sampleRate : ℝ) (phaseW n : Nat), 0 < baseFreq → 0 < sampleRate →
    ∃ inc, Params.IsReferenceTable baseFreq sampleRate phaseW n inc ∧
      (∀ inc', Params.IsReferenceTable baseFreq sampleRate phaseW n inc' → inc' = inc) ∧ inc.length = n ∧
      (∀ s : Nat, s < 12 → s < n →
        inc[s]? = some ⌊baseFreq * (2 : ℝ) ^ ((s : ℝ) / 12) * 2 ^ phaseW / sampleRate⌋₊) ∧
      (∀ s v : Nat, inc[s]? = some v → s + 12 < n → inc[s + 12]? = some (2 * v))

/-- The table the model evaluates for positive rational rates is the reference table of those rates (10_state.md R28). That the
evaluated form takes rational rates is the model's choice (log entry 9). -/
def Obligations.ReferenceTableIsEvaluated : Prop :=
  ∀ (baseFreq sampleRate : ℚ) (phaseW n : Nat), 0 < baseFreq → 0 < sampleRate →
    Params.IsReferenceTable (baseFreq : ℝ) (sampleRate : ℝ) phaseW n
      (Params.referenceTable baseFreq sampleRate phaseW n)

/-- Only reset clears the status: while ERR is 1, no command, legal or illegal, changes ERR, CAUSE or EPORT (60_exceptions.md
R139). -/
def Obligations.OnlyResetClearsTheStatus : Prop :=
  ∀ (s t : State) (c : Command) (rest : List Event), s.input = .command c :: rest → s.err = 1#1 →
    step s = .next t → StatusKept s t

/-- R33: over a run of commands from a clear status, the status at the end is that of the FIRST illegal command, and clear where
there is none. -/
def Obligations.StatusTellsTheFirstIllegalCommand : Prop :=
  ∀ s : State, s.err = 0#1 → s.cause = 0#4 → s.eport = 0#1 → (∀ e ∈ s.input, e ≠ Event.reset) →
    ∃ t, s.finish = .next t ∧
      match s.input.findSome? Event.illegality with
      | none => t.err = 0#1 ∧ t.cause = 0#4 ∧ t.eport = 0#1
      | some (cause, p) => t.err = 1#1 ∧ t.cause = cause.code ∧ t.eport = portBit p

/-- The state after reset meets the invariant of 10_state.md section 6. -/
def Obligations.ResetMeetsTheInvariant : Prop := State.reset.Inv

/-- Every step keeps the invariant of 10_state.md section 6, from every state that meets it. -/
def Obligations.EveryStepKeepsTheInvariant : Prop := ∀ s t : State, s.Inv → step s = .next t → t.Inv

/-- R36: every state reached from reset meets the invariant, with any configuration and whatever events are performed. -/
def Obligations.EveryReachableStateMeetsTheInvariant : Prop :=
  ∀ (c : Config) (es : List Event) (k : Nat) (t : State),
    Host.Core.run core k ({ State.reset with
      cfg := c
      input := es } : State) = .next t → t.Inv

/-- R50: over a run, what port A answers, and the oscillator's elements, depend on the commands of port A alone. -/
def Obligations.PortAIsIndependentOfPortI : Prop :=
  ∀ s s' : State, SameOnA s s' → (∀ e ∈ s.input, e ≠ Event.reset) → (∀ e ∈ s'.input, e ≠ Event.reset) →
    portEvents .A s.input = portEvents .A s'.input →
    ∃ t t', s.finish = .next t ∧ s'.finish = .next t' ∧ SameOnA t t'

/-- The KeyStates depend on the events that act on port I alone (41_oscillator.md R102, 60_exceptions.md R146). The runs may hold
reset events: that a reset event keeps the configuration is the model's choice (log entry 12). -/
def Obligations.KeysAreIndependentOfPortA : Prop :=
  ∀ s s' : State, SameKeys s s' → portEvents .I s.input = portEvents .I s'.input →
    ∃ t t', s.finish = .next t ∧ s'.finish = .next t' ∧ SameKeys t t'

/-- Two interleavings of the same commands on each port end alike in the keys, the oscillator, ERR and port A's responses;
which illegal command was the first may differ, and so may racy reads (20_memory.md R46, R50, 60_exceptions.md R146, and
10_state.md R37). -/
def Obligations.EveryInterleavingEndsAlike : Prop :=
  ∀ (s : State) (es es' : List Event), (∀ e ∈ es, e ≠ Event.reset) → (∀ e ∈ es', e ≠ Event.reset) →
    portEvents .I es = portEvents .I es' → portEvents .A es = portEvents .A es' →
      ∃ t t', (s.setInput es).finish = .next t ∧ (s.setInput es').finish = .next t' ∧
        KeysKept t t' ∧ PhaseKept t t' ∧ StepKept t t' ∧ t'.err = t.err ∧ t'.respA = t.respA
end

