-- ==== Sys2Proof/Laws/Configuration.lean ====
section
/-!
SUPPORT. What a legal configuration gives: its ranges, and the bounds of its increments; and what the search behind the evaluated
reference table and the reference table's relation say.
-/
namespace Sys2Proof

theorem Config.ranges (c : Config) :
    2 ≤ c.params.phaseW ∧ c.params.phaseW ≤ 32 ∧ 2 ≤ c.params.n ∧ c.params.n ≤ 65536 ∧ c.params.maxAmp ≤ 32767 ∧
      c.params.inc.length = c.params.n := by
  have h := c.legal
  simp only [Params.legal, Params.rangesOk, Bool.and_eq_true, decide_eq_true_eq] at h
  tauto

/-- ONE fits in the word that holds the phase, or is just above it. -/
theorem Config.one_le (c : Config) : c.params.one ≤ 2 ^ 32 :=
  Nat.pow_le_pow_right (by decide) c.ranges.2.1

/-- ONE is twice HALF. -/
theorem Config.one_eq (c : Config) : c.params.one = 2 * c.params.half := by
  have h := c.ranges.1
  simp only [Params.one, Params.half]
  rw [← Nat.pow_succ']
  congr 1
  omega

/-- An entry of the table is positive and below ONE (10_state.md R27 (a)). -/
theorem Config.inc_bounds (c : Config) {v : Nat} (hv : v ∈ c.params.inc) : 1 ≤ v ∧ v < c.params.one := by
  have h := c.legal
  simp only [Params.legal, Bool.and_eq_true, Params.incrementsOk, List.all_eq_true, decide_eq_true_eq] at h
  exact h.1.1.2 v hv

/-- The table has an entry for every step below N. -/
theorem Config.inc_get (c : Config) {s : Nat} (hs : s < c.params.n) :
    ∃ v, c.params.inc[s]? = some v ∧ 1 ≤ v ∧ v < c.params.one := by
  have hl : s < c.params.inc.length := by rw [c.ranges.2.2.2.2.2]; exact hs
  exact ⟨c.params.inc[s], List.getElem?_eq_getElem hl, c.inc_bounds (List.getElem_mem hl)⟩

theorem Params.incAt_of_get {p : Params} {s v : Nat} (h : p.inc[s]? = some v) : p.incAt s = v := by
  simp [Params.incAt, List.getD_eq_getElem?_getD, h]

/-- The increment of any step is below ONE. -/
theorem Config.incAt_lt (c : Config) (s : Nat) : c.params.incAt s < c.params.one := by
  by_cases hs : s < c.params.n
  · obtain ⟨v, hv, _, h⟩ := c.inc_get hs
    rw [Params.incAt_of_get hv]
    exact h
  · have hl : c.params.inc.length ≤ s := by rw [c.ranges.2.2.2.2.2]; omega
    simp [Params.incAt, List.getD_eq_getElem?_getD, List.getElem?_eq_none hl, Params.one]

/-! ## The reference table -/

/-- The search finds the greatest number that passes the test, where it lies in the searched range. -/
theorem floorSearch_eq {ok : Nat → Bool} {m : Nat} (hok : ∀ k, ok k = true ↔ k ≤ m) :
    ∀ bits acc, acc ≤ m → m < acc + 2 ^ bits → floorSearch ok bits acc = m := by
  intro bits
  induction bits with
  | zero => intro acc _ _; simp only [floorSearch]; omega
  | succ b ih =>
    intro acc _ hi
    rw [Nat.pow_succ] at hi
    rw [floorSearch]
    split
    · next h => exact ih _ ((hok _).1 h) (by omega)
    · next h =>
      have : ¬acc + 2 ^ b ≤ m := fun h' => h ((hok _).2 h')
      exact ih _ ‹_› (by omega)

theorem Params.IsReferenceTable.length_eq {f r : ℝ} {w n : Nat} {inc : List Nat}
    (h : Params.IsReferenceTable f r w n inc) : inc.length = n := h.2.2.1

/-- An entry below 12 is the floor of the real formula (10_state.md R28). -/
theorem Params.IsReferenceTable.entry_base {f r : ℝ} {w n s v : Nat} {inc : List Nat}
    (h : Params.IsReferenceTable f r w n inc) (hs : s < 12) (hv : inc[s]? = some v) :
    v = ⌊f * (2 : ℝ) ^ ((s : ℝ) / 12) * 2 ^ w / r⌋₊ := by
  rw [h.2.2.2 s v hv, if_pos hs]

/-- An entry from 12 on is twice the one an octave below (10_state.md R28). -/
theorem Params.IsReferenceTable.entry_octave {f r : ℝ} {w n s v : Nat} {inc : List Nat}
    (h : Params.IsReferenceTable f r w n inc) (hv : inc[s + 12]? = some v) : v = 2 * inc.getD s 0 := by
  rw [h.2.2.2 _ v hv, if_neg (by omega), Nat.add_sub_cancel]

end Sys2Proof
end

