-- ==== Sys2Proof/Laws/State.lean ====
section
/-!
SUPPORT. What each update of State leaves in each field: one lemma a field an update, true by rfl.
-/
namespace Sys2Proof.Machine

variable (s : State)

/-! ## respond -/

@[simp] theorem State.respond_cfg (p : Port) (w : Word) : (s.respond p w).cfg = s.cfg := rfl
@[simp] theorem State.respond_ks1 (p : Port) (w : Word) : (s.respond p w).ks1 = s.ks1 := rfl
@[simp] theorem State.respond_ks2 (p : Port) (w : Word) : (s.respond p w).ks2 = s.ks2 := rfl
@[simp] theorem State.respond_phase (p : Port) (w : Word) : (s.respond p w).phase = s.phase := rfl
@[simp] theorem State.respond_stepCtr (p : Port) (w : Word) : (s.respond p w).stepCtr = s.stepCtr := rfl
@[simp] theorem State.respond_err (p : Port) (w : Word) : (s.respond p w).err = s.err := rfl
@[simp] theorem State.respond_cause (p : Port) (w : Word) : (s.respond p w).cause = s.cause := rfl
@[simp] theorem State.respond_eport (p : Port) (w : Word) : (s.respond p w).eport = s.eport := rfl
@[simp] theorem State.respond_prevPhase (p : Port) (w : Word) : (s.respond p w).prevPhase = s.prevPhase := rfl
@[simp] theorem State.respond_prevStep (p : Port) (w : Word) : (s.respond p w).prevStep = s.prevStep := rfl
@[simp] theorem State.respond_input (p : Port) (w : Word) : (s.respond p w).input = s.input := rfl
@[simp] theorem State.respond_respI (p : Port) (w : Word) : (s.respond p w).respI = (match p with | .I => w :: s.respI | .A => s.respI) := rfl
@[simp] theorem State.respond_respA (p : Port) (w : Word) : (s.respond p w).respA = (match p with | .I => s.respA | .A => w :: s.respA) := rfl
@[simp] theorem State.respond_draws (p : Port) (w : Word) : (s.respond p w).draws = s.draws := rfl

/-! ## setKeys -/

@[simp] theorem State.setKeys_cfg (k1 k2 : BitVec 8) : (s.setKeys k1 k2).cfg = s.cfg := rfl
@[simp] theorem State.setKeys_ks1 (k1 k2 : BitVec 8) : (s.setKeys k1 k2).ks1 = k1 := rfl
@[simp] theorem State.setKeys_ks2 (k1 k2 : BitVec 8) : (s.setKeys k1 k2).ks2 = k2 := rfl
@[simp] theorem State.setKeys_phase (k1 k2 : BitVec 8) : (s.setKeys k1 k2).phase = s.phase := rfl
@[simp] theorem State.setKeys_stepCtr (k1 k2 : BitVec 8) : (s.setKeys k1 k2).stepCtr = s.stepCtr := rfl
@[simp] theorem State.setKeys_err (k1 k2 : BitVec 8) : (s.setKeys k1 k2).err = s.err := rfl
@[simp] theorem State.setKeys_cause (k1 k2 : BitVec 8) : (s.setKeys k1 k2).cause = s.cause := rfl
@[simp] theorem State.setKeys_eport (k1 k2 : BitVec 8) : (s.setKeys k1 k2).eport = s.eport := rfl
@[simp] theorem State.setKeys_prevPhase (k1 k2 : BitVec 8) : (s.setKeys k1 k2).prevPhase = s.prevPhase := rfl
@[simp] theorem State.setKeys_prevStep (k1 k2 : BitVec 8) : (s.setKeys k1 k2).prevStep = s.prevStep := rfl
@[simp] theorem State.setKeys_input (k1 k2 : BitVec 8) : (s.setKeys k1 k2).input = s.input := rfl
@[simp] theorem State.setKeys_respI (k1 k2 : BitVec 8) : (s.setKeys k1 k2).respI = s.respI := rfl
@[simp] theorem State.setKeys_respA (k1 k2 : BitVec 8) : (s.setKeys k1 k2).respA = s.respA := rfl
@[simp] theorem State.setKeys_draws (k1 k2 : BitVec 8) : (s.setKeys k1 k2).draws = s.draws := rfl

/-! ## setPhase -/

@[simp] theorem State.setPhase_cfg (v : Word) : (s.setPhase v).cfg = s.cfg := rfl
@[simp] theorem State.setPhase_ks1 (v : Word) : (s.setPhase v).ks1 = s.ks1 := rfl
@[simp] theorem State.setPhase_ks2 (v : Word) : (s.setPhase v).ks2 = s.ks2 := rfl
@[simp] theorem State.setPhase_phase (v : Word) : (s.setPhase v).phase = v := rfl
@[simp] theorem State.setPhase_stepCtr (v : Word) : (s.setPhase v).stepCtr = s.stepCtr := rfl
@[simp] theorem State.setPhase_err (v : Word) : (s.setPhase v).err = s.err := rfl
@[simp] theorem State.setPhase_cause (v : Word) : (s.setPhase v).cause = s.cause := rfl
@[simp] theorem State.setPhase_eport (v : Word) : (s.setPhase v).eport = s.eport := rfl
@[simp] theorem State.setPhase_prevPhase (v : Word) : (s.setPhase v).prevPhase = s.phase := rfl
@[simp] theorem State.setPhase_prevStep (v : Word) : (s.setPhase v).prevStep = s.prevStep := rfl
@[simp] theorem State.setPhase_input (v : Word) : (s.setPhase v).input = s.input := rfl
@[simp] theorem State.setPhase_respI (v : Word) : (s.setPhase v).respI = s.respI := rfl
@[simp] theorem State.setPhase_respA (v : Word) : (s.setPhase v).respA = s.respA := rfl
@[simp] theorem State.setPhase_draws (v : Word) : (s.setPhase v).draws = s.draws := rfl

/-! ## setStep -/

@[simp] theorem State.setStep_cfg (v : BitVec 16) : (s.setStep v).cfg = s.cfg := rfl
@[simp] theorem State.setStep_ks1 (v : BitVec 16) : (s.setStep v).ks1 = s.ks1 := rfl
@[simp] theorem State.setStep_ks2 (v : BitVec 16) : (s.setStep v).ks2 = s.ks2 := rfl
@[simp] theorem State.setStep_phase (v : BitVec 16) : (s.setStep v).phase = s.phase := rfl
@[simp] theorem State.setStep_stepCtr (v : BitVec 16) : (s.setStep v).stepCtr = v := rfl
@[simp] theorem State.setStep_err (v : BitVec 16) : (s.setStep v).err = s.err := rfl
@[simp] theorem State.setStep_cause (v : BitVec 16) : (s.setStep v).cause = s.cause := rfl
@[simp] theorem State.setStep_eport (v : BitVec 16) : (s.setStep v).eport = s.eport := rfl
@[simp] theorem State.setStep_prevPhase (v : BitVec 16) : (s.setStep v).prevPhase = s.prevPhase := rfl
@[simp] theorem State.setStep_prevStep (v : BitVec 16) : (s.setStep v).prevStep = s.stepCtr := rfl
@[simp] theorem State.setStep_input (v : BitVec 16) : (s.setStep v).input = s.input := rfl
@[simp] theorem State.setStep_respI (v : BitVec 16) : (s.setStep v).respI = s.respI := rfl
@[simp] theorem State.setStep_respA (v : BitVec 16) : (s.setStep v).respA = s.respA := rfl
@[simp] theorem State.setStep_draws (v : BitVec 16) : (s.setStep v).draws = s.draws := rfl

/-! ## setInput -/

@[simp] theorem State.setInput_cfg (es : List Event) : (s.setInput es).cfg = s.cfg := rfl
@[simp] theorem State.setInput_ks1 (es : List Event) : (s.setInput es).ks1 = s.ks1 := rfl
@[simp] theorem State.setInput_ks2 (es : List Event) : (s.setInput es).ks2 = s.ks2 := rfl
@[simp] theorem State.setInput_phase (es : List Event) : (s.setInput es).phase = s.phase := rfl
@[simp] theorem State.setInput_stepCtr (es : List Event) : (s.setInput es).stepCtr = s.stepCtr := rfl
@[simp] theorem State.setInput_err (es : List Event) : (s.setInput es).err = s.err := rfl
@[simp] theorem State.setInput_cause (es : List Event) : (s.setInput es).cause = s.cause := rfl
@[simp] theorem State.setInput_eport (es : List Event) : (s.setInput es).eport = s.eport := rfl
@[simp] theorem State.setInput_prevPhase (es : List Event) : (s.setInput es).prevPhase = s.prevPhase := rfl
@[simp] theorem State.setInput_prevStep (es : List Event) : (s.setInput es).prevStep = s.prevStep := rfl
@[simp] theorem State.setInput_input (es : List Event) : (s.setInput es).input = es := rfl
@[simp] theorem State.setInput_respI (es : List Event) : (s.setInput es).respI = s.respI := rfl
@[simp] theorem State.setInput_respA (es : List Event) : (s.setInput es).respA = s.respA := rfl
@[simp] theorem State.setInput_draws (es : List Event) : (s.setInput es).draws = s.draws := rfl

/-! ## recordIllegal -/

@[simp] theorem State.recordIllegal_cfg (c : Cause) (p : Port) : (s.recordIllegal c p).cfg = s.cfg := rfl
@[simp] theorem State.recordIllegal_ks1 (c : Cause) (p : Port) : (s.recordIllegal c p).ks1 = s.ks1 := rfl
@[simp] theorem State.recordIllegal_ks2 (c : Cause) (p : Port) : (s.recordIllegal c p).ks2 = s.ks2 := rfl
@[simp] theorem State.recordIllegal_phase (c : Cause) (p : Port) : (s.recordIllegal c p).phase = s.phase := rfl
@[simp] theorem State.recordIllegal_stepCtr (c : Cause) (p : Port) : (s.recordIllegal c p).stepCtr = s.stepCtr := rfl
@[simp] theorem State.recordIllegal_err (c : Cause) (p : Port) : (s.recordIllegal c p).err = (if s.err = 0#1 then 1#1 else s.err) := rfl
@[simp] theorem State.recordIllegal_cause (c : Cause) (p : Port) : (s.recordIllegal c p).cause = (if s.err = 0#1 then c.code else s.cause) := rfl
@[simp] theorem State.recordIllegal_eport (c : Cause) (p : Port) : (s.recordIllegal c p).eport = (if s.err = 0#1 then portBit p else s.eport) := rfl
@[simp] theorem State.recordIllegal_prevPhase (c : Cause) (p : Port) : (s.recordIllegal c p).prevPhase = s.prevPhase := rfl
@[simp] theorem State.recordIllegal_prevStep (c : Cause) (p : Port) : (s.recordIllegal c p).prevStep = s.prevStep := rfl
@[simp] theorem State.recordIllegal_input (c : Cause) (p : Port) : (s.recordIllegal c p).input = s.input := rfl
@[simp] theorem State.recordIllegal_respI (c : Cause) (p : Port) : (s.recordIllegal c p).respI = s.respI := rfl
@[simp] theorem State.recordIllegal_respA (c : Cause) (p : Port) : (s.recordIllegal c p).respA = s.respA := rfl
@[simp] theorem State.recordIllegal_draws (c : Cause) (p : Port) : (s.recordIllegal c p).draws = s.draws := rfl

/-! ## countDraw -/

@[simp] theorem State.countDraw_cfg : s.countDraw.cfg = s.cfg := rfl
@[simp] theorem State.countDraw_ks1 : s.countDraw.ks1 = s.ks1 := rfl
@[simp] theorem State.countDraw_ks2 : s.countDraw.ks2 = s.ks2 := rfl
@[simp] theorem State.countDraw_phase : s.countDraw.phase = s.phase := rfl
@[simp] theorem State.countDraw_stepCtr : s.countDraw.stepCtr = s.stepCtr := rfl
@[simp] theorem State.countDraw_err : s.countDraw.err = s.err := rfl
@[simp] theorem State.countDraw_cause : s.countDraw.cause = s.cause := rfl
@[simp] theorem State.countDraw_eport : s.countDraw.eport = s.eport := rfl
@[simp] theorem State.countDraw_prevPhase : s.countDraw.prevPhase = s.prevPhase := rfl
@[simp] theorem State.countDraw_prevStep : s.countDraw.prevStep = s.prevStep := rfl
@[simp] theorem State.countDraw_input : s.countDraw.input = s.input := rfl
@[simp] theorem State.countDraw_respI : s.countDraw.respI = s.respI := rfl
@[simp] theorem State.countDraw_respA : s.countDraw.respA = s.respA := rfl
@[simp] theorem State.countDraw_draws : s.countDraw.draws = s.draws + 1 := rfl

/-! ## applyReset -/

@[simp] theorem State.applyReset_cfg : s.applyReset.cfg = s.cfg := rfl
@[simp] theorem State.applyReset_ks1 : s.applyReset.ks1 = 0x00#8 := rfl
@[simp] theorem State.applyReset_ks2 : s.applyReset.ks2 = 0x00#8 := rfl
@[simp] theorem State.applyReset_phase : s.applyReset.phase = 0#32 := rfl
@[simp] theorem State.applyReset_stepCtr : s.applyReset.stepCtr = 0#16 := rfl
@[simp] theorem State.applyReset_err : s.applyReset.err = 0#1 := rfl
@[simp] theorem State.applyReset_cause : s.applyReset.cause = 0#4 := rfl
@[simp] theorem State.applyReset_eport : s.applyReset.eport = 0#1 := rfl
@[simp] theorem State.applyReset_prevPhase : s.applyReset.prevPhase = 0#32 := rfl
@[simp] theorem State.applyReset_prevStep : s.applyReset.prevStep = 0#16 := rfl
@[simp] theorem State.applyReset_input : s.applyReset.input = s.input := rfl
@[simp] theorem State.applyReset_respI : s.applyReset.respI = s.respI := rfl
@[simp] theorem State.applyReset_respA : s.applyReset.respA = s.respA := rfl
@[simp] theorem State.applyReset_draws : s.applyReset.draws = s.draws := rfl

end Sys2Proof.Machine
end

