-- ==== Sys2Proof/Laws/Ops.lean ====
section
/-!
SUPPORT. What each shared operation does, said once: the entries of a KeyState, the draw of a racy read,
and the wrap.
-/
namespace Sys2Proof.Machine

/-! ## Buttons and KeyStates -/

theorem Button.mem_all (btn : Button) : btn ∈ Button.all := by cases btn <;> decide

theorem Button.index_injective {x y : Button} (h : x.index = y.index) : x = y := by
  cases x <;> cases y <;> first | rfl | exact absurd h (by decide)

/-- Every index is a button's. -/
theorem Button.index_surjective (k : Fin 8) : ∃ btn : Button, btn.index = k := by
  match k with
  | 0 => exact ⟨.a, rfl⟩
  | 1 => exact ⟨.b, rfl⟩
  | 2 => exact ⟨.select, rfl⟩
  | 3 => exact ⟨.start, rfl⟩
  | 4 => exact ⟨.up, rfl⟩
  | 5 => exact ⟨.down, rfl⟩
  | 6 => exact ⟨.left, rfl⟩
  | 7 => exact ⟨.right, rfl⟩

/-- Two KeyStates that hold the same buttons pressed are equal. -/
theorem pressed_ext {x y : BitVec 8} (h : ∀ btn, pressed x btn = pressed y btn) : x = y := by
  apply BitVec.eq_of_getLsbD_eq
  intro k hk
  obtain ⟨btn, hb⟩ := Button.index_surjective ⟨k, hk⟩
  have := h btn
  simpa [pressed, hb] using this

/-- A flag has the bit of its own button and no other. -/
theorem pressed_flag (x y : Button) : pressed x.flag y = decide (x = y) := by
  cases x <;> cases y <;> decide

theorem pressed_or (x y : BitVec 8) (btn : Button) : pressed (x ||| y) btn = (pressed x btn || pressed y btn) := by
  simp [pressed]

theorem pressed_zero (btn : Button) : pressed 0#8 btn = false := by simp [pressed]

/-- Writing one entry writes that entry and no other. -/
theorem pressed_setButton (x y : Button) (v : Bool) (ks : BitVec 8) :
    pressed (setButton x v ks) y = if x = y then v else pressed ks y := by
  have hb := y.index.isLt
  have hf := pressed_flag x y
  unfold pressed at hf
  cases v
  · simp only [setButton, pressed, Bool.false_eq_true, if_false, BitVec.getLsbD_and, BitVec.getLsbD_not, hf]
    by_cases h : x = y <;> simp [h, hb]
  · simp only [setButton, pressed, if_true, BitVec.getLsbD_or, hf]
    by_cases h : x = y <;> simp [h]

/-- Recording a transition over some buttons writes the matching entries of those buttons and no other. -/
theorem pressed_foldl_setButton (bind : Vector KeyCode 8) (key : KeyCode) (v : Bool) (l : List Button) (ks : BitVec 8)
    (y : Button) :
    pressed (l.foldl (fun k btn => if keyMatches bind key btn then setButton btn v k else k) ks) y =
      if y ∈ l ∧ keyMatches bind key y = true then v else pressed ks y := by
  induction l generalizing ks with
  | nil => simp
  | cons x l ih =>
    rw [List.foldl_cons, ih]
    by_cases hb : y ∈ l ∧ keyMatches bind key y = true
    · simp [hb]
    · rw [if_neg hb]
      by_cases ha : x = y
      · subst ha
        by_cases hm : keyMatches bind key x = true
        · simp [hm, pressed_setButton]
        · simp [hm]
      · have hne : ¬ y = x := fun h => ha h.symm
        by_cases hm : keyMatches bind key x = true
        · simp [hm, pressed_setButton, ha, hb, hne]
        · simp [hm, hb, hne]

/-- A transition writes every matching entry of a KeyState and no other (40_encoder.md R75 to R77). -/
theorem pressed_recordTransition (bind : Vector KeyCode 8) (key : KeyCode) (v : Bool) (ks : BitVec 8) (btn : Button) :
    pressed (recordTransition bind key v ks) btn = if bind.get btn.index = key then v else pressed ks btn := by
  rw [recordTransition, pressed_foldl_setButton]
  simp [Button.mem_all, keyMatches]

/-- The same, entry by entry. -/
theorem getLsbD_recordTransition (bind : Vector KeyCode 8) (key : KeyCode) (v : Bool) (ks : BitVec 8) (k : Fin 8) :
    (recordTransition bind key v ks).getLsbD k.val = if bind.get k = key then v else ks.getLsbD k.val := by
  obtain ⟨btn, rfl⟩ := Button.index_surjective k
  exact pressed_recordTransition bind key v ks btn

/-! ## Racy reads -/

/-- A drawn bit is the current value's where the mask has 1, and the previous value's where it has 0. -/
theorem getLsbD_drawBits (mask a b : Word) (k : Nat) :
    (drawBits mask a b).getLsbD k = if mask.getLsbD k then a.getLsbD k else b.getLsbD k := by
  by_cases hk : k < 32
  · simp only [drawBits, BitVec.getLsbD_or, BitVec.getLsbD_and, BitVec.getLsbD_not, hk, decide_true, Bool.true_and]
    cases mask.getLsbD k <;> simp
  · have hge : 32 ≤ k := by omega
    simp [BitVec.getLsbD_of_ge _ _ hge]

/-! ## The oscillator -/

/-- The pre-wrap sum is below the phase plus ONE. -/
theorem State.sum_lt (s : State) : s.sum < s.phase.toNat + s.cfg.params.one :=
  Nat.add_lt_add_left (s.cfg.incAt_lt s.stepCtr.toNat) s.phase.toNat

/-- The wrapped sum fits the word that holds the phase, in every state. -/
theorem State.wrap_lt (s : State) : wrapOnce s.cfg.params s.sum < 2 ^ 32 := by
  have h1 := s.cfg.one_le
  have h2 := s.sum_lt
  have h3 := s.phase.isLt
  unfold wrapOnce
  split <;> omega

/-- Below ONE, one conditional subtraction is the remainder by ONE (41_oscillator.md R93). -/
theorem State.wrap_eq_mod (s : State) (h : s.phase.toNat < s.cfg.params.one) :
    wrapOnce s.cfg.params s.sum = s.sum % s.cfg.params.one := by
  have hs := s.sum_lt
  unfold wrapOnce
  split
  · next hle => rw [Nat.mod_eq_sub_mod hle, Nat.mod_eq_of_lt (by omega)]
  · next hlt => rw [Nat.mod_eq_of_lt (by omega)]

/-- The amplitude in force fits a signed 16-bit sample (10_state.md R29). -/
theorem State.ampNow_le (s : State) (h : s.stepCtr.toNat < s.cfg.params.n) : s.ampNow ≤ 32767 := by
  obtain ⟨_, _, hn, _, hm, _⟩ := s.cfg.ranges
  have hle : s.cfg.params.maxAmp * s.stepCtr.toNat ≤ 32767 * (s.cfg.params.n - 1) :=
    Nat.mul_le_mul hm (by omega)
  exact Nat.div_le_of_le_mul (by omega)

end Sys2Proof.Machine
end

