-- ==== Sys2Proof/Laws/PerInstr.lean ====
section
/-!
SUPPORT. The family of per-instruction lemmas about syntax: the opcode a command is encoded with belongs to the command's port.
-/
namespace Sys2Proof.Laws.OpcodePort

/-- The opcode field of a command's word is a defined one, and its port is the command's own (30_encoding.md R60, R61). -/
def Statement (i : Instr) : Prop := portOfOp (opField (encode i)) = some i.port

/-- The opcode field of a format K word is the top nibble of its high half, whatever the key. -/
theorem opField_append (hi : BitVec 16) (key : KeyCode) : opField (hi ++ key) = hi.extractLsb' 12 4 := by
  apply BitVec.eq_of_getLsbD_eq
  intro k hk
  simp only [opField, BitVec.getLsbD_extractLsb', BitVec.getLsbD_append]
  have h : ¬ (28 + k < 16) := by omega
  have e : 28 + k - 16 = 12 + k := by omega
  simp [h, e]

theorem keydown (key : KeyCode) : Statement (.keydown key) := by
  simp only [Statement, encode, opField_append]
  rfl

theorem keyup (key : KeyCode) : Statement (.keyup key) := by
  simp only [Statement, encode, opField_append]
  rfl

theorem sample : Statement .sample := by unfold Statement; decide

theorem bufend : Statement .bufend := by unfold Statement; decide

theorem rdCtrl1 : Statement .rdCtrl1 := by unfold Statement; decide

theorem rdCtrl2 : Statement .rdCtrl2 := by unfold Statement; decide

theorem rdStep : Statement .rdStep := by unfold Statement; decide

theorem rdAmp : Statement .rdAmp := by unfold Statement; decide

theorem rdInc : Statement .rdInc := by unfold Statement; decide

theorem rdPhase : Statement .rdPhase := by unfold Statement; decide

theorem rdStatus : Statement .rdStatus := by unfold Statement; decide

end Sys2Proof.Laws.OpcodePort
end

