-- ==== Sys2Proof/Laws/Step.lean ====
section
/-!
SUPPORT. What one step can do, said once, and how a run unrolls into steps.
-/
namespace Sys2Proof.Machine

/-- The next state of every command: each executes, whatever the state. -/
theorem exec_cases {i : Instr} {s t : State} (h : exec i s = .next t) :
    (∃ key, i = .keydown key ∧ t = s.keyTransition key true) ∨
    (∃ key, i = .keyup key ∧ t = s.keyTransition key false) ∨
    (i = .sample ∧ t = (s.setPhase (BitVec.ofNat 32 (wrapOnce s.cfg.params s.sum))).respond .A (sampleWord s.level)) ∨
    (i = .bufend ∧ t = (s.setStep (BitVec.ofNat 16 ((s.stepCtr.toNat + 1) % s.cfg.params.n))).respond .A 0#32) ∨
    ((∃ w, t = s.respond .I w) ∧ i ∈ [Instr.rdCtrl1, .rdCtrl2, .rdStatus]) ∨
    ((∃ cur prev, t = s.racyRead cur prev) ∧ i ∈ [Instr.rdStep, .rdAmp, .rdInc, .rdPhase]) := by
  cases i with
  | keydown key => cases h; exact .inl ⟨key, rfl, rfl⟩
  | keyup key => cases h; exact .inr (.inl ⟨key, rfl, rfl⟩)
  | sample => cases h; exact .inr (.inr (.inl ⟨rfl, rfl⟩))
  | bufend => cases h; exact .inr (.inr (.inr (.inl ⟨rfl, rfl⟩)))
  | rdCtrl1 => cases h; exact .inr (.inr (.inr (.inr (.inl ⟨⟨_, rfl⟩, by decide⟩))))
  | rdCtrl2 => cases h; exact .inr (.inr (.inr (.inr (.inl ⟨⟨_, rfl⟩, by decide⟩))))
  | rdStatus => cases h; exact .inr (.inr (.inr (.inr (.inl ⟨⟨_, rfl⟩, by decide⟩))))
  | rdStep => cases h; exact .inr (.inr (.inr (.inr (.inr ⟨⟨_, _, rfl⟩, by decide⟩))))
  | rdAmp => cases h; exact .inr (.inr (.inr (.inr (.inr ⟨⟨_, _, rfl⟩, by decide⟩))))
  | rdInc => cases h; exact .inr (.inr (.inr (.inr (.inr ⟨⟨_, _, rfl⟩, by decide⟩))))
  | rdPhase => cases h; exact .inr (.inr (.inr (.inr (.inr ⟨⟨_, _, rfl⟩, by decide⟩))))

/-- What a step can do: nothing, a reset, a decoded command, or an illegal one. -/
theorem step_cases {s t : State} (h : step s = .next t) :
    (s.input = [] ∧ t = s) ∨
    (∃ rest, s.input = .reset :: rest ∧ t = (s.setInput rest).applyReset) ∨
    (∃ c rest i, s.input = .command c :: rest ∧ decode c.port c.word = .ok i ∧ exec i (s.setInput rest) = .next t) ∨
    (∃ c rest cause, s.input = .command c :: rest ∧ decode c.port c.word = .error cause ∧
      t = (s.setInput rest).illegal cause c.port) := by
  unfold step performNext at h
  cases hi : s.input with
  | nil => rw [hi] at h; cases h; exact .inl ⟨rfl, rfl⟩
  | cons e rest =>
    rw [hi] at h
    cases e with
    | reset => cases h; exact .inr (.inl ⟨rest, rfl, rfl⟩)
    | command c =>
      simp only [perform] at h
      cases hd : decode c.port c.word with
      | ok i => rw [hd] at h; exact .inr (.inr (.inl ⟨c, rest, i, rfl, hd, h⟩))
      | error cause => rw [hd] at h; cases h; exact .inr (.inr (.inr ⟨c, rest, cause, rfl, hd, rfl⟩))

/-- The port of a decoded command is the one it came on: the checks let no other through (30_encoding.md R67). -/
theorem portOfOp_of_decode {p : Port} {w : Word} {i : Instr} (h : decode p w = .ok i) :
    portOfOp (opField w) = some p := by
  unfold decode at h
  cases hp : portOfOp (opField w) with
  | none => rw [hp] at h; cases h
  | some q =>
    rw [hp] at h
    by_cases hq : p = q
    · rw [hq]
    · simp [hq] at h

/-! ## Runs -/

/-- A run whose first step gives a next state goes on from there. -/
theorem run_succ (M : Host.Core) {s t : M.State} (h : M.step s = .next t) (k : Nat) : M.run (k + 1) s = M.run k t := by
  rw [Host.Core.run, h]

/-- A run with nothing to perform ends where it is. -/
theorem State.finish_of_nil {s : State} (h : s.input = []) : s.finish = .next s := by
  unfold State.finish
  rw [h]
  rfl

/-- A run with an event to perform is one step and then the run of what is left. -/
theorem State.finish_of_cons {s t : State} {e : Event} {es : List Event} (h : s.input = e :: es) (hs : step s = .next t)
    (ht : t.input = es) : s.finish = t.finish := by
  unfold State.finish
  rw [h, ht, List.length_cons]
  exact run_succ core hs es.length

end Sys2Proof.Machine
end

