-- ==== Sys2Proof/Tests/Slice0.lean ====
section
/-!
SUPPORT. The model's own tests. Every expected value is a vector of spec/95_test_vectors.md (its number is cited) or is written out from
the encoding or the pseudocode of the rule cited.
-/
namespace Sys2Proof.Tests

open Sys2Proof.Machine

/-! ## The test configurations of 95_test_vectors.md section 1 -/

def incTC1 : List Nat := [64, 67, 71, 76, 80, 85, 90, 95, 101, 107, 114, 120, 128, 134, 142, 152]

def bind1TC1 : Vector KeyCode 8 := #v[0x10#16, 0x11#16, 0x12#16, 0x13#16, 0x14#16, 0x15#16, 0x16#16, 0x17#16]

def bind2TC1 : Vector KeyCode 8 := #v[0x20#16, 0x21#16, 0x22#16, 0x23#16, 0x24#16, 0x25#16, 0x26#16, 0x27#16]

def paramsTC1 : Params :=
  { phaseW := 10, n := 16, inc := incTC1, maxAmp := 3000, bind1 := bind1TC1, bind2 := bind2TC1 }

def tc1 : Config := ⟨paramsTC1, by decide⟩

def tc2 : Config :=
  ⟨{ phaseW := 2, n := 2, inc := [1, 3], maxAmp := 32767, bind1 := bind1TC1, bind2 := bind2TC1 }, by decide⟩

def tc3 : Config :=
  ⟨{ paramsTC1 with bind1 := bind1TC1.set 5 0x10#16, bind2 := bind2TC1.set 3 0x10#16 }, by decide⟩

/-- A state of a configuration as reset leaves it. -/
def fresh (c : Config) : State := { State.reset with cfg := c }

/-- What holds of the next state, and false where there is none. -/
def after (o : Host.Outcome State Fault Refusal) (q : State → Bool) : Bool :=
  match o with
  | .next t => q t
  | .fault _ => false
  | .refused _ => false

/-- The state of the readback vectors RD1 to RD7: five `BUFEND`s, then three `SAMPLE`s. -/
def rdState : State := { fresh tc1 with stepCtr := 5#16, prevStep := 4#16, phase := 255#32, prevPhase := 170#32 }

/-! ## Ill-formed terms, one for each check -/

theorem test_wrong_port_is_ill_formed : Instr.wellFormedOn .A (.keydown 0#16) = false := by decide

theorem test_own_port_is_well_formed : Instr.wellFormedOn .A .sample = true := by decide

theorem test_phaseW_above_32_refused : { paramsTC1 with phaseW := 33 }.rangesOk = false := by decide

theorem test_phaseW_below_2_refused :
    { paramsTC1 with phaseW := 1, n := 2, inc := [1, 1] }.rangesOk = false := by decide

theorem test_one_step_refused : { paramsTC1 with n := 1, inc := [64] }.rangesOk = false := by decide

theorem test_too_many_steps_refused : { paramsTC1 with n := 65537 }.rangesOk = false := by decide

theorem test_amplitude_above_32767_refused : { paramsTC1 with maxAmp := 32768 }.rangesOk = false := by decide

theorem test_short_table_refused : { paramsTC1 with n := 15 }.rangesOk = false := by decide

theorem test_zero_increment_refused : { paramsTC1 with n := 2, inc := [0, 64] }.incrementsOk = false := by decide

theorem test_increment_of_one_refused : { paramsTC1 with n := 2, inc := [64, 1024] }.incrementsOk = false := by decide

theorem test_broken_octave_refused :
    { paramsTC1 with n := 13, inc := List.replicate 13 64 }.octavesOk = false := by decide

theorem test_descending_ladder_refused : { paramsTC1 with n := 2, inc := [65, 64] }.ladderOk = false := by decide

theorem test_illegal_parameters_have_no_configuration :
    Config.ofParams { paramsTC1 with n := 2, inc := [65, 64] } = none := by decide

theorem test_legal_parameters_have_one : Config.ofParams paramsTC1 = some tc1 := by decide

/-! ## Decoding: words written out from the encodings of 30_encoding.md R56 and R62 -/

theorem test_decode_keydown : decode .I 0x10010014#32 = .ok (.keydown 0x14#16) := by decide

theorem test_decode_keydown_all_ones : decode .I 0x1001FFFF#32 = .ok (.keydown 0xFFFF#16) := by decide

theorem test_decode_keyup : decode .I 0x10000014#32 = .ok (.keyup 0x14#16) := by decide

theorem test_decode_sample : decode .A 0x20000000#32 = .ok .sample := by decide

theorem test_decode_bufend : decode .A 0x30000000#32 = .ok .bufend := by decide

theorem test_decode_rdCtrl1 : decode .I 0x40000000#32 = .ok .rdCtrl1 := by decide

theorem test_decode_rdCtrl2 : decode .I 0x40000001#32 = .ok .rdCtrl2 := by decide

theorem test_decode_rdStep : decode .I 0x40000002#32 = .ok .rdStep := by decide

theorem test_decode_rdAmp : decode .I 0x40000003#32 = .ok .rdAmp := by decide

theorem test_decode_rdInc : decode .I 0x40000004#32 = .ok .rdInc := by decide

theorem test_decode_rdPhase : decode .I 0x40000005#32 = .ok .rdPhase := by decide

theorem test_decode_rdStatus : decode .I 0x40000006#32 = .ok .rdStatus := by decide

/-- E1 to E6: reserved opcodes, on either port. -/
theorem test_decode_reserved_opcodes :
    decode .I 0#32 = .error .reservedOpcode ∧ decode .A 0x50000000#32 = .error .reservedOpcode ∧
      decode .I 0xFFFFFFFF#32 = .error .reservedOpcode := by decide

/-- E7 to E10: the wrong port. -/
theorem test_decode_wrong_ports :
    decode .A 0x10010010#32 = .error .wrongPort ∧ decode .I 0x20000000#32 = .error .wrongPort ∧
      decode .I 0x30000000#32 = .error .wrongPort ∧ decode .A 0x40000006#32 = .error .wrongPort := by decide

/-- E11 to E16: reserved bits, the lowest and the highest of each format. -/
theorem test_decode_reserved_bits :
    decode .I 0x10030010#32 = .error .reservedBits ∧ decode .I 0x18010010#32 = .error .reservedBits ∧
      decode .I 0x40000100#32 = .error .reservedBits ∧ decode .I 0x48000000#32 = .error .reservedBits ∧
      decode .A 0x20000001#32 = .error .reservedBits ∧ decode .A 0x38000000#32 = .error .reservedBits := by decide

/-- E17 and E18: reserved selectors; E19 and E20: the order of the checks. -/
theorem test_decode_selectors_and_priority :
    decode .I 0x40000007#32 = .error .reservedSelector ∧ decode .I 0x400000FF#32 = .error .reservedSelector ∧
      decode .A 0x40000107#32 = .error .wrongPort ∧ decode .I 0x40000107#32 = .error .reservedBits := by decide

theorem test_decodeTableWord_keydown : decodeTableWord 32 0x10010027 = some (.keydown 0x27#16) := by decide

theorem test_decodeTableWord_reserved : decodeTableWord 32 0x50000000 = none := by decide

/-! ## One step each, on the vectors of 95_test_vectors.md -/

/-- K8 (TC3): a key bound twice in one controller and once in the other writes all three entries. -/
theorem test_keydown_writes_every_match :
    after (exec (.keydown 0x10#16) (fresh tc3)) (fun t => t.ks1 == 0x21#8 && t.ks2 == 0x08#8 && t.respI == [0#32]) = true := by
  decide

/-- K6: an unbound key changes nothing and answers 0. -/
theorem test_keydown_unbound :
    after (exec (.keydown 0xFFFF#16) (fresh tc1)) (fun t => t.ks1 == 0#8 && t.ks2 == 0#8 && t.respI == [0#32]) = true := by
  decide

/-- The example of R77: from 0x11, releasing Up leaves A. -/
theorem test_keyup_clears_one :
    after (exec (.keyup 0x14#16) { fresh tc1 with ks1 := 0x11#8, ks2 := 0x10#8 })
      (fun t => t.ks1 == 0x01#8 && t.ks2 == 0x10#8) = true := by decide

/-- K9 (TC3). -/
theorem test_keyup_writes_every_match :
    after (exec (.keyup 0x10#16) { fresh tc3 with ks1 := 0x21#8, ks2 := 0x08#8 })
      (fun t => t.ks1 == 0#8 && t.ks2 == 0#8) = true := by decide

/-- SA7: the wrap sample is -a. -/
theorem test_sample_wrap_is_negative :
    after (exec .sample { fresh tc1 with stepCtr := 1#16, phase := 1023#32 })
      (fun t => t.respA == [0xFF38#32] && t.phase == 66#32 && t.prevPhase == 1023#32) = true := by decide

/-- SA4 and SA13: just below HALF; and the largest pre-wrap sum of TC2. -/
theorem test_sample_edges :
    after (exec .sample { fresh tc1 with stepCtr := 1#16, phase := 444#32 })
        (fun t => t.respA == [0xC8#32] && t.phase == 511#32) = true ∧
      after (exec .sample { fresh tc2 with stepCtr := 1#16, phase := 3#32 })
        (fun t => t.respA == [0x8001#32] && t.phase == 2#32) = true := by decide

/-- B3: the sweep wraps. -/
theorem test_bufend_wraps :
    after (exec .bufend { fresh tc1 with stepCtr := 15#16 })
      (fun t => t.stepCtr == 0#16 && t.prevStep == 15#16 && t.respA == [0#32]) = true := by decide

/-- B5: the phase runs on. -/
theorem test_bufend_keeps_phase :
    after (exec .bufend { fresh tc1 with stepCtr := 4#16, phase := 777#32 })
      (fun t => t.stepCtr == 5#16 && t.phase == 777#32) = true := by decide

/-- CR3: Up and A. -/
theorem test_rdCtrl1 : after (exec .rdCtrl1 { fresh tc1 with ks1 := 0x11#8 }) (fun t => t.respI == [17#32]) = true := by
  decide

/-- The example of R117: every key of controller 2 pressed. -/
theorem test_rdCtrl2 : after (exec .rdCtrl2 { fresh tc1 with ks2 := 0xFF#8 }) (fun t => t.respI == [255#32]) = true := by
  decide

/-- RD3: the candidates are 5 and 4. -/
theorem test_rdStep : exec .rdStep rdState =
    .next { rdState with respI := [drawBits (Config.freeDraw 0) 5#32 4#32], draws := 1 } := rfl

/-- RD4: the candidates are 1000 and 800. -/
theorem test_rdAmp : exec .rdAmp rdState =
    .next { rdState with respI := [drawBits (Config.freeDraw 0) 1000#32 800#32], draws := 1 } := rfl

/-- RD5: the candidates are 85 and 80. -/
theorem test_rdInc : exec .rdInc rdState =
    .next { rdState with respI := [drawBits (Config.freeDraw 0) 85#32 80#32], draws := 1 } := rfl

/-- RD6: the candidates are 255 and 170. -/
theorem test_rdPhase : exec .rdPhase rdState =
    .next { rdState with respI := [drawBits (Config.freeDraw 0) 255#32 170#32], draws := 1 } := rfl

/-- RD4: an admitted torn read, and the current and the stale one. -/
theorem test_drawBits : drawBits 0x0F#32 1000#32 800#32 = 0x328#32 ∧ drawBits 0xFFFFFFFF#32 1000#32 800#32 = 0x3E8#32 ∧
    drawBits 0#32 1000#32 800#32 = 0x320#32 := by decide

/-- E19: the word reads ERR, CAUSE 2 and EPORT 1. -/
theorem test_rdStatus :
    after (exec .rdStatus { fresh tc1 with err := 1#1, cause := 2#4, eport := 1#1 })
      (fun t => t.respI == [0x121#32] && t.err == 1#1) = true := by decide

/-! ## Steps: illegal commands, reset, nothing to do, the first word after reset -/

/-- E22: no partial effect. -/
theorem test_illegal_has_no_partial_effect :
    after (step { fresh tc1 with ks1 := 0x01#8, input := [.command ⟨.I, 0x10030011#32⟩] })
      (fun t => t.ks1 == 0x01#8 && t.err == 1#1 && t.cause == 3#4 && t.eport == 0#1 && t.respI == [0#32]) = true := by
  decide

/-- E21: the first error is kept. -/
theorem test_first_error_kept :
    after (step { fresh tc1 with err := 1#1, cause := 4#4, input := [.command ⟨.A, 0#32⟩] })
      (fun t => t.cause == 4#4 && t.eport == 0#1 && t.respA == [0#32]) = true := by decide

/-- RS1: reset from any state. -/
theorem test_reset_event :
    after (step { rdState with ks1 := 1#8, ks2 := 2#8, err := 1#1, cause := 2#4, eport := 1#1, input := [.reset] })
      (fun t => decide (t = fresh tc1)) = true := by decide

theorem test_nothing_to_do_holds : step State.reset = .next State.reset := rfl

theorem test_first_word_after_reset_runs :
    step (State.reset.withFetchWord 32 0x20000000) = exec .sample State.reset := rfl

/-! ## The reference table (10_state.md R28) -/

/-- TC1's row of increments is the reference table at 440 and 7040. -/
theorem test_reference_table_tc1 : Params.referenceTable 440 7040 10 16 = incTC1 := by decide +kernel

/-- Rates that are no whole numbers of hertz: 27.5 and 440 have TC1's ratio, 1/16. -/
theorem test_reference_table_half_hertz : Params.referenceTable (55 / 2) 440 10 16 = incTC1 := by decide +kernel

/-- An irrational ratio has a table too: at PHASE_W = 4 and the rates pi and 8, INC[0] is floor(2 * pi) = 6 (R28 by hand). -/
theorem test_reference_table_of_an_irrational_ratio : Params.IsReferenceTable Real.pi 8 4 1 [6] := by
  have h : ⌊Real.pi * 2 ^ 4 / 8⌋₊ = 6 := by
    rw [Nat.floor_eq_iff (by positivity)]
    constructor <;> push_cast <;> linarith [Real.pi_gt_three, Real.pi_lt_d2]
  refine ⟨Real.pi_pos, by norm_num, rfl, ?_⟩
  rintro (_ | s) v hv
  · simpa [h, eq_comm] using hv
  · simp at hv

/-- The realistic tables of 95_test_vectors.md section 1. -/
theorem test_reference_table_realistic :
    referenceInc 440 48000 32 0 = 39370533 ∧ referenceInc 440 48000 32 12 = 78741066 ∧
      referenceInc 440 44100 32 0 = 42852281 ∧ referenceInc 440 44100 32 12 = 85704562 := by decide +kernel

/-! ## The assembler (30_encoding.md R71, R72): lines of the programs of 95_test_vectors.md section 10 -/

theorem test_read_keydown :
    readLine "I: KEYDOWN 0x0014     ; 0x1001_0014  Up, controller 1".toList =
      some [.command .I (.keydown 0x14#16)] := by decide

theorem test_read_raw_word :
    readLine "A: .word 0x4000_0006  ; RD on port A".toList = some [.raw .A 0x40000006#32] := by decide

theorem test_read_wrong_port : readLine "I: SAMPLE".toList = some [.command .I .sample] := by decide

theorem test_read_rd : readLine "I: RD CTRL1".toList = some [.command .I .rdCtrl1] := by decide

theorem test_read_fill : readLine "A: FILL 16".toList = some [.fill 16] := by decide

theorem test_read_comment : readLine "  ; nothing".toList = some [] := by decide

theorem test_read_key_of_17_bits : readLine "I: KEYUP 65536".toList = none := by decide

theorem test_fill_two :
    (AsmLine.fill 2).assemble = [⟨.A, 0x20000000#32⟩, ⟨.A, 0x20000000#32⟩, ⟨.A, 0x30000000#32⟩] := by decide

/-! ## Witnesses: for every statement with hypotheses, a state and operands that meet all of them together -/

/-- The next events of a port's words. -/
def on (p : Port) (ws : List Word) : List Event := ws.map fun w => .command ⟨p, w⟩

theorem witness_DecodeOfEncode : Instr.wellFormedOn .I (.keydown 0xFFFF#16) = true ∧ Instr.wellFormedOn .A .bufend = true := by
  decide

theorem witness_WrongPortLineIsIllegalWithCauseTwo :
    (Port.I ≠ Instr.port .sample ∧ ({ fresh tc1 with input := on .I [0x20000000#32] }).input =
      assembleProgram [.command .I .sample] ++ [] ∧ (fresh tc1).err = 0#1) ∧
    (Port.A ≠ Instr.port .rdStatus ∧ ({ fresh tc1 with input := on .A [0x40000006#32] }).input =
      assembleProgram [.command .A .rdStatus] ++ []) := by decide

theorem witness_StepRunsTheDecodedCommand :
    ({ fresh tc1 with input := on .A [0x20000000#32, 0x30000000#32] }).input =
      .command ⟨.A, 0x20000000#32⟩ :: on .A [0x30000000#32] ∧ decode .A 0x20000000#32 = .ok .sample := by decide

/-- Each cause, each port, a clear status and a set one. -/
theorem witness_IllegalCommandRecordsOnlyTheFirst :
    ({ fresh tc1 with input := on .I [0#32] }).input = .command ⟨.I, 0#32⟩ :: [] ∧ (fresh tc1).err = 0#1 ∧
      ({ fresh tc1 with err := 1#1, cause := 1#4 }).err ≠ 0#1 ∧
      decode .I 0#32 = .error .reservedOpcode ∧ decode .A 0x50000000#32 = .error .reservedOpcode ∧
      decode .A 0x10000000#32 = .error .wrongPort ∧ decode .I 0x10020000#32 = .error .reservedBits ∧
      decode .I 0x40000007#32 = .error .reservedSelector := by decide

theorem witness_ResetEventLeavesTheResetValues :
    ({ rdState with input := [.reset] }).input = .reset :: [] := rfl

theorem witness_NothingToPerformHoldsTheState : rdState.input = [] := rfl

/-- One command of each kind that the clauses name: illegal, key transition, buffer's end, sample. -/
theorem witness_EveryCommandAnswersOnceOnItsPort :
    (∃ t, step { fresh tc1 with input := on .I [0#32] } = .next t) ∧
      (∃ t, step { fresh tc1 with input := on .I [0x10010010#32] } = .next t) ∧
      (∃ t, step { fresh tc1 with input := on .A [0x30000000#32] } = .next t) ∧
      (∃ t, step { fresh tc1 with input := on .A [0x20000000#32] } = .next t) :=
  ⟨⟨_, rfl⟩, ⟨_, rfl⟩, ⟨_, rfl⟩, ⟨_, rfl⟩⟩

/-- The reserved-bit clause of KEYDOWN and KEYUP: its lowest and its highest bit. -/
theorem witness_KeyWordsWithReservedBits :
    (0x10020000#32).toNat / 2 ^ 28 = 1 ∧ (0x10020000#32).toNat / 2 ^ 17 % 2 ^ 11 ≠ 0 ∧
      (0x18000000#32).toNat / 2 ^ 28 = 1 ∧ (0x18000000#32).toNat / 2 ^ 17 % 2 ^ 11 ≠ 0 := by decide

/-- Key 0x13 is bound in controller 1 only, key 0x23 in controller 2 only. -/
theorem witness_ControllersAreIndependent :
    (∃ t, exec (.keydown 0x13#16) (fresh tc1) = .next t) ∧ (∀ b : Fin 8, tc1.params.bind2.get b ≠ 0x13#16) ∧
      (∃ t, exec (.keyup 0x23#16) (fresh tc1) = .next t) ∧ (∀ b : Fin 8, tc1.params.bind1.get b ≠ 0x23#16) :=
  ⟨⟨_, rfl⟩, by decide, ⟨_, rfl⟩, by decide⟩

theorem witness_UnboundKeyChangesNothing :
    ∀ b : Fin 8, tc1.params.bind1.get b ≠ 0x30#16 ∧ tc1.params.bind2.get b ≠ 0x30#16 := by decide

theorem witness_KeyTransitionsAreIdempotent :
    ∃ t u, exec (.keydown 0x10#16) (fresh tc1) = .next t ∧ exec (.keydown 0x10#16) t = .next u := ⟨_, _, rfl, rfl⟩

/-- S3: Select and Right, listed in the order they were not pressed in, and one of them twice. -/
theorem witness_ControllerRegisterIsTheOrOfPressedFlags :
    ∀ btn : Button, btn ∈ [Button.right, .select, .right] ↔ pressed 0x84#8 btn = true := by
  intro btn
  cases btn <;> decide

theorem witness_KeyStateIsTheLastMatchingTransition :
    ({ fresh tc1 with input := on .I [0x10010010#32, 0x10000010#32] }).input =
      [((0x10#16 : KeyCode), true), (0x10#16, false)].map
        (fun e => .command ⟨.I, encode (if e.2 then .keydown e.1 else .keyup e.1)⟩) := by decide

/-- The first and the last step of TC1. -/
theorem witness_SampleEmitsTheLevelAndAdvancesThePhase :
    (fresh tc1).cfg.params.inc[(fresh tc1).stepCtr.toNat]? = some 64 ∧
      ({ fresh tc1 with stepCtr := 15#16 }).cfg.params.inc[({ fresh tc1 with stepCtr := 15#16 }).stepCtr.toNat]? = some 152 := by
  decide

/-- The reserved-bit clauses of SAMPLE and BUFEND: the lowest and the highest bit. -/
theorem witness_NoOperandWordsWithReservedBits :
    (0x20000001#32).toNat / 2 ^ 28 = 2 ∧ (0x20000001#32).toNat % 2 ^ 28 ≠ 0 ∧
      (0x38000000#32).toNat / 2 ^ 28 = 3 ∧ (0x38000000#32).toNat % 2 ^ 28 ≠ 0 := by decide

theorem witness_PhaseStaysBelowOneAndMoves :
    rdState.Inv ∧ rdState.cfg.params.inc[rdState.stepCtr.toNat]? = some 85 := by decide

/-- A state for each clause: sums HALF - 1 and HALF (SA4, SA5), and a wrap (SA7). -/
theorem witness_LevelIsTestedBeforeTheWrap :
    ({ fresh tc1 with stepCtr := 1#16, phase := 444#32 }).Inv ∧ 444 + 67 < 2 ^ (tc1.params.phaseW - 1) ∧
      ({ fresh tc1 with stepCtr := 1#16, phase := 445#32 }).Inv ∧ 2 ^ (tc1.params.phaseW - 1) ≤ 445 + 67 ∧
      ({ fresh tc1 with stepCtr := 1#16, phase := 1023#32 }).Inv ∧ tc1.params.inc[1]? = some 67 := by decide

theorem witness_SweepIsCyclic :
    ({ fresh tc1 with stepCtr := 15#16, input := on .A [0x30000000#32] }).stepCtr.toNat < tc1.params.n ∧
      on .A [0x30000000#32] = List.replicate 1 (.command ⟨.A, 0x30000000#32⟩) := by decide

theorem witness_BufferKeepsIncrementAndAmplitude :
    (∃ t, step { fresh tc1 with input := on .A [0x20000000#32] } = .next t) ∧
      Event.command ⟨.A, 0x20000000#32⟩ ≠ .reset ∧
      (∀ c, Event.command ⟨.A, 0x20000000#32⟩ = .command c → decode c.port c.word ≠ .ok .bufend) :=
  ⟨⟨_, rfl⟩, by decide, fun c h => by cases h; decide⟩

/-- From the last step, the next increment is INC[0]. -/
theorem witness_PhaseRunsOnAcrossBuffers :
    ({ fresh tc1 with stepCtr := 15#16 }).Inv ∧ tc1.params.inc[((15#16).toNat + 1) % tc1.params.n]? = some 64 := by decide

/-- One sample on port A between two commands of port I. -/
theorem witness_FirstBufferIsSilent :
    tc1.params.inc[0]? = some 64 ∧
      portEvents .A (on .I [0x10010010#32] ++ on .A [0x20000000#32] ++ on .I [0x40000005#32]) =
        List.replicate 1 (.command ⟨.A, 0x20000000#32⟩) := by decide

theorem witness_FillMakesOneBuffer :
    ({ fresh tc1 with stepCtr := 1#16 }).Inv ∧ tc1.params.inc[1]? = some 67 ∧
      portEvents .A (on .I [0x40000002#32] ++ on .A [0x20000000#32, 0x30000000#32]) = assembleProgram [.fill 1] := by decide

theorem witness_AmplitudeRampRisesToMaximum : 15 < tc1.params.n ∧ 14 ≤ 15 := by decide

theorem witness_SampleNeverReadsAsTheLowestPattern : ({ fresh tc2 with stepCtr := 1#16, phase := 3#32 }).Inv := by decide

theorem witness_RdIncDrawsFromTwoIncrements :
    rdState.cfg.params.inc[rdState.stepCtr.toNat]? = some 85 ∧ rdState.cfg.params.inc[rdState.prevStep.toNat]? = some 80 := by
  decide

theorem witness_RdPhaseDrawsFromPhaseAndItsShadow : rdState.Inv := by decide

/-- A bit that both candidates have clear, and each of the four readbacks. -/
theorem witness_TornReadsKeepConstantZeros :
    (5#32).getLsbD 31 = false ∧ (4#32).getLsbD 31 = false ∧ rdState.Inv ∧
      (Instr.rdStep, 16) ∈ [(Instr.rdStep, 16), (.rdAmp, 16), (.rdInc, 10), (.rdPhase, 10)] ∧ rdState.cfg.params.phaseW = 10 := by
  decide

/-- RD10: 7 is a mixture of 0 and 15. -/
theorem witness_DrawAdmitsEveryMixture : DrawnFrom 7#32 0#32 15#32 := by decide

theorem witness_OnlyTheNamedCommandsWriteAnElement :
    (∃ t, step { fresh tc1 with input := on .I [0x10010010#32] } = .next t) ∧
      (∃ t, step { fresh tc1 with input := on .A [0x20000000#32] } = .next t) ∧
      (∃ t, step { fresh tc1 with input := on .A [0x30000000#32] } = .next t) ∧
      (∃ t, step { fresh tc1 with input := on .I [0#32] } = .next t) :=
  ⟨⟨_, rfl⟩, ⟨_, rfl⟩, ⟨_, rfl⟩, ⟨_, rfl⟩⟩

theorem witness_EachPortWritesOnlyItsOwnElements :
    (∃ t, step { fresh tc1 with input := on .A [0x20000000#32] } = .next t) ∧
      (∃ t, step { fresh tc1 with input := on .I [0x10010010#32] } = .next t) := ⟨⟨_, rfl⟩, ⟨_, rfl⟩⟩

theorem witness_ConfigurationIsFixed : ∃ t, step { fresh tc1 with input := [.reset] } = .next t := ⟨_, rfl⟩

theorem witness_IllegalConfigurationsAreRefused : ∃ c, Config.ofParams paramsTC1 = some c :=
  ⟨tc1, test_legal_parameters_have_one⟩

theorem witness_ReferenceTableIsTheFloorAndDoubles :
    (0 : ℝ) < Real.sqrt 2 ∧ (0 : ℝ) < Real.pi ∧ 11 < 12 ∧ 11 < 16 ∧ 3 + 12 < 16 :=
  ⟨by positivity, Real.pi_pos, by decide, by decide, by decide⟩

theorem witness_ReferenceTableIsEvaluated : (0 : ℚ) < 55 / 2 ∧ (0 : ℚ) < 440 := by norm_num

theorem witness_OnlyResetClearsTheStatus :
    ({ fresh tc1 with err := 1#1, cause := 4#4 }).err = 1#1 ∧
      ∃ t, step { fresh tc1 with err := 1#1, cause := 4#4, input := on .I [0x40000006#32] } = .next t := ⟨rfl, _, rfl⟩

/-- The two illegal words of E21, and a run with none. -/
theorem witness_StatusTellsTheFirstIllegalCommand :
    (fresh tc1).err = 0#1 ∧ (fresh tc1).cause = 0#4 ∧ (fresh tc1).eport = 0#1 ∧
      (∀ e ∈ on .I [0x40000007#32] ++ on .A [0#32], e ≠ Event.reset) ∧
      (on .I [0x40000007#32] ++ on .A [0#32]).findSome? Event.illegality = some (.reservedSelector, .I) ∧
      (on .I [0x10010010#32]).findSome? Event.illegality = none := by decide

theorem witness_EveryStepKeepsTheInvariant :
    rdState.Inv ∧ ∃ t, step { rdState with input := on .A [0x30000000#32] } = .next t := ⟨by decide, _, rfl⟩

theorem witness_EveryReachableStateMeetsTheInvariant :
    ∃ t, Host.Core.run core 1 ({ fresh tc1 with input := on .A [0x20000000#32] } : State) = .next t := ⟨_, rfl⟩

/-- The same sample, with a key transition before it and without. -/
theorem witness_PortAIsIndependentOfPortI :
    SameOnA { fresh tc1 with input := on .I [0x10010010#32] ++ on .A [0x20000000#32] }
        { fresh tc1 with ks1 := 1#8, input := on .A [0x20000000#32] } ∧
      (∀ e ∈ on .I [0x10010010#32] ++ on .A [0x20000000#32], e ≠ Event.reset) ∧
      portEvents .A (on .I [0x10010010#32] ++ on .A [0x20000000#32]) = portEvents .A (on .A [0x20000000#32]) :=
  ⟨⟨rfl, rfl, rfl, rfl, rfl, rfl⟩, by decide, by decide⟩

theorem witness_KeysAreIndependentOfPortA :
    SameKeys { fresh tc1 with phase := 7#32 } (fresh tc1) ∧
      portEvents .I (on .I [0x10010010#32] ++ on .A [0x20000000#32]) = portEvents .I (on .I [0x10010010#32]) :=
  ⟨⟨rfl, rfl, rfl⟩, by decide⟩

/-- Program P5's first two commands, in both orders. -/
theorem witness_EveryInterleavingEndsAlike :
    (∀ e ∈ on .I [0x10010021#32] ++ on .A [0x30000000#32], e ≠ Event.reset) ∧
      (∀ e ∈ on .A [0x30000000#32] ++ on .I [0x10010021#32], e ≠ Event.reset) ∧
      portEvents .I (on .I [0x10010021#32] ++ on .A [0x30000000#32]) =
        portEvents .I (on .A [0x30000000#32] ++ on .I [0x10010021#32]) ∧
      portEvents .A (on .I [0x10010021#32] ++ on .A [0x30000000#32]) =
        portEvents .A (on .A [0x30000000#32] ++ on .I [0x10010021#32]) := by decide

end Sys2Proof.Tests
end

/-! # Facts about the operations and the steps that the proofs below share -/

namespace Sys2Proof

/-! ## Legal parameter sets -/

/-- A check of all pairs of entries `k` apart, entry by entry. -/
theorem all_zip_drop_iff (l : List Nat) (k : Nat) (ok : Nat × Nat → Bool) :
    (l.zip (l.drop k)).all ok = true ↔ ∀ s v v' : Nat, l[s]? = some v → l[s + k]? = some v' → ok (v, v') = true := by
  simp only [List.all_eq_true, List.mem_iff_getElem?, List.getElem?_zip_eq_some, List.getElem?_drop, Prod.forall,
    Nat.add_comm k]
  constructor
  · intro h s v v' hv hv'
    exact h v v' ⟨s, hv, hv'⟩
  · rintro h v v' ⟨s, hv, hv'⟩
    exact h s v v' hv hv'

theorem Params.rangesOk_iff (p : Params) : p.rangesOk = true ↔
    2 ≤ p.phaseW ∧ p.phaseW ≤ 32 ∧ 2 ≤ p.n ∧ p.n ≤ 65536 ∧ p.maxAmp ≤ 32767 ∧ p.inc.length = p.n := by
  simp [Params.rangesOk, and_assoc]

theorem Params.incrementsOk_iff (p : Params) :
    p.incrementsOk = true ↔ ∀ s v : Nat, p.inc[s]? = some v → 1 ≤ v ∧ v < 2 ^ p.phaseW := by
  simp only [Params.incrementsOk, List.all_eq_true, List.mem_iff_getElem?, Bool.and_eq_true,
    decide_eq_true_eq, forall_exists_index]
  exact ⟨fun h s v hv => h v s hv, fun h v s hv => h s v hv⟩

theorem Params.octavesOk_iff (p : Params) :
    p.octavesOk = true ↔ ∀ s v v' : Nat, p.inc[s]? = some v → p.inc[s + 12]? = some v' → v' = 2 * v := by
  simp only [Params.octavesOk, all_zip_drop_iff, decide_eq_true_eq]

theorem Params.ladderOk_iff (p : Params) :
    p.ladderOk = true ↔ ∀ s v v' : Nat, p.inc[s]? = some v → p.inc[s + 1]? = some v' → v ≤ v' := by
  simp only [Params.ladderOk, all_zip_drop_iff, decide_eq_true_eq]

theorem Config.exists_ofParams_iff (p : Params) : (∃ c, Config.ofParams p = some c) ↔ p.legal = true := by
  simp [Config.ofParams]

theorem Config.ofParams_params (c : Config) : Config.ofParams c.params = some c := dif_pos c.legal

/-- The step counter holds every remainder by N: N is at most 2^16 (00_scope.md R7). -/
theorem Config.toNat_ofNat_mod_n (c : Config) (k : Nat) : (BitVec.ofNat 16 (k % c.params.n)).toNat = k % c.params.n := by
  obtain ⟨_, _, hlo, hhi, _⟩ := c.ranges
  have hk : k % c.params.n < c.params.n := Nat.mod_lt _ (by omega)
  rw [BitVec.toNat_ofNat, Nat.mod_eq_of_lt (by omega)]

/-! ## Causes -/

/-- A cause code names a cause: it is 1 to 4 (60_exceptions.md R136). -/
theorem Cause.code_range (cause : Cause) : cause.code ≠ 0#4 ∧ cause.code.toNat ≤ 4 := by
  cases cause <;> decide

end Sys2Proof

namespace Sys2Proof.Machine

/-! ## The controller registers -/

/-- OR-ing the flags of some buttons sets the bits of those buttons and no other. -/
theorem pressed_foldl_or_flag (l : List Button) (acc : BitVec 8) (y : Button) :
    pressed (l.foldl (fun r btn => r ||| btn.flag) acc) y = (pressed acc y || decide (y ∈ l)) := by
  induction l generalizing acc with
  | nil => simp
  | cons x l ih =>
    rw [List.foldl_cons, ih, pressed_or, pressed_flag]
    simp [Bool.or_assoc, eq_comm]

/-- A KeyState is the OR of the flags of its pressed buttons, however they are listed (10_state.md R32). -/
theorem foldl_or_flag_eq {ks : BitVec 8} {l : List Button} (h : ∀ btn, btn ∈ l ↔ pressed ks btn = true) :
    l.foldl (fun r btn => r ||| btn.flag) 0#8 = ks := by
  apply pressed_ext
  intro btn
  rw [pressed_foldl_or_flag, pressed_zero]
  simp [h]

/-- The controller register reads the KeyState itself (10_state.md R32). -/
@[simp] theorem computeRegister_eq (ks : BitVec 8) : computeRegister ks = ks := by
  rw [computeRegister, ← List.foldl_filter]
  exact foldl_or_flag_eq (by simp [Button.mem_all])

theorem Button.toNat_flag (btn : Button) : btn.flag.toNat = 2 ^ btn.index.val := by
  cases btn <;> rfl

/-! ## What one command does -/

theorem exec_total (i : Instr) (s : State) : ∃ t, exec i s = .next t := by
  cases i <;> exact ⟨_, rfl⟩

/-- The frame of every legal command: each element is kept by all commands but the ones that R37 names. -/
theorem exec_frame {i : Instr} {s t : State} (h : exec i s = .next t) :
    ((∃ key, i = .keydown key ∨ i = .keyup key) ∨ KeysKept s t) ∧ (i = .sample ∨ PhaseKept s t) ∧
      (i = .bufend ∨ StepKept s t) ∧ StatusKept s t ∧ OutsideKept s t := by
  rcases exec_cases h with ⟨key, rfl, rfl⟩ | ⟨key, rfl, rfl⟩ | ⟨rfl, rfl⟩ | ⟨rfl, rfl⟩ | ⟨⟨_, rfl⟩, _⟩ | ⟨⟨_, _, rfl⟩, _⟩
  case inl => exact ⟨.inl ⟨key, .inl rfl⟩, .inr ⟨rfl, rfl⟩, .inr ⟨rfl, rfl⟩, ⟨rfl, rfl, rfl⟩, rfl, rfl⟩
  case inr.inl => exact ⟨.inl ⟨key, .inr rfl⟩, .inr ⟨rfl, rfl⟩, .inr ⟨rfl, rfl⟩, ⟨rfl, rfl, rfl⟩, rfl, rfl⟩
  case inr.inr.inl => exact ⟨.inr ⟨rfl, rfl⟩, .inl rfl, .inr ⟨rfl, rfl⟩, ⟨rfl, rfl, rfl⟩, rfl, rfl⟩
  case inr.inr.inr.inl => exact ⟨.inr ⟨rfl, rfl⟩, .inr ⟨rfl, rfl⟩, .inl rfl, ⟨rfl, rfl, rfl⟩, rfl, rfl⟩
  all_goals exact ⟨.inr ⟨rfl, rfl⟩, .inr ⟨rfl, rfl⟩, .inr ⟨rfl, rfl⟩, ⟨rfl, rfl, rfl⟩, rfl, rfl⟩

/-- The frame of the illegal command: it writes the status alone (60_exceptions.md R135). -/
theorem State.illegal_frame (cause : Cause) (p : Port) (s : State) :
    KeysKept s (s.illegal cause p) ∧ PhaseKept s (s.illegal cause p) ∧ StepKept s (s.illegal cause p) ∧
      OutsideKept s (s.illegal cause p) :=
  ⟨⟨rfl, rfl⟩, ⟨rfl, rfl⟩, ⟨rfl, rfl⟩, rfl, rfl⟩

/-! ## One step, by the event it performs -/

section Step
variable {s t : State} {c : Command} {rest : List Event}

theorem step_of_nil (hs : s.input = []) : step s = .next s := by
  simp [step, performNext, hs]

theorem step_of_reset (hs : s.input = .reset :: rest) : step s = .next (s.setInput rest).applyReset := by
  simp [step, performNext, hs]

theorem step_of_legal {i : Instr} (hs : s.input = .command c :: rest) (hd : decode c.port c.word = .ok i) :
    step s = exec i (s.setInput rest) := by
  simp [step, performNext, perform, hs, hd]

theorem step_of_illegal {cause : Cause} (hs : s.input = .command c :: rest)
    (hd : decode c.port c.word = .error cause) : step s = .next ((s.setInput rest).illegal cause c.port) := by
  simp [step, performNext, perform, hs, hd]

/-- A step that performs a command executes what it decodes to, or takes the illegal-command outcome. -/
theorem step_command_cases (hs : s.input = .command c :: rest) (h : step s = .next t) :
    (∃ i, decode c.port c.word = .ok i ∧ exec i (s.setInput rest) = .next t) ∨
      (∃ cause, decode c.port c.word = .error cause ∧ t = (s.setInput rest).illegal cause c.port) := by
  cases hd : decode c.port c.word with
  | ok i => exact .inl ⟨i, rfl, step_of_legal hs hd ▸ h⟩
  | error cause =>
    rw [step_of_illegal hs hd] at h
    cases h
    exact .inr ⟨cause, rfl, rfl⟩

end Step

/-- Nothing in the block stops (70_reset_and_hazards.md R167). -/
theorem step_total (s : State) : ∃ t, step s = .next t := by
  cases hs : s.input with
  | nil => exact ⟨s, step_of_nil hs⟩
  | cons e rest =>
    cases e with
    | reset => exact ⟨_, step_of_reset hs⟩
    | command c =>
      cases hd : decode c.port c.word with
      | ok i => rw [step_of_legal hs hd]; exact exec_total i _
      | error cause => exact ⟨_, step_of_illegal hs hd⟩

/-! ## The invariant of 10_state.md section 6 -/

/-- The wrapped sum is below ONE where the phase is (41_oscillator.md R93). -/
theorem State.wrap_lt_one (s : State) (h : s.phase.toNat < s.cfg.params.one) :
    wrapOnce s.cfg.params s.sum < s.cfg.params.one := by
  rw [s.wrap_eq_mod h]
  exact Nat.mod_lt _ (Nat.two_pow_pos _)

/-- Every legal command keeps the invariant; only `SAMPLE` and `BUFEND` write an element it bounds. -/
theorem exec_inv {i : Instr} {s t : State} (h : exec i s = .next t) (hs : s.Inv) : t.Inv := by
  obtain ⟨hphase, hprevPhase, hstep, hprevStep, hstatus⟩ := hs
  rcases exec_cases h with ⟨_, _, rfl⟩ | ⟨_, _, rfl⟩ | ⟨_, rfl⟩ | ⟨_, rfl⟩ | ⟨⟨_, rfl⟩, _⟩ | ⟨⟨_, _, rfl⟩, _⟩
  case inr.inr.inl => -- SAMPLE
    refine ⟨?_, hphase, hstep, hprevStep, hstatus⟩
    rw [State.respond_phase, State.setPhase_phase, BitVec.toNat_ofNat, Nat.mod_eq_of_lt s.wrap_lt]
    exact s.wrap_lt_one hphase
  case inr.inr.inr.inl => -- BUFEND
    refine ⟨hphase, hprevPhase, ?_, hstep, hstatus⟩
    rw [State.respond_stepCtr, State.setStep_stepCtr, s.cfg.toNat_ofNat_mod_n]
    exact Nat.mod_lt _ (Nat.zero_lt_of_lt hstep)
  all_goals exact ⟨hphase, hprevPhase, hstep, hprevStep, hstatus⟩

theorem State.illegal_inv {s : State} (hs : s.Inv) (cause : Cause) (p : Port) : (s.illegal cause p).Inv := by
  obtain ⟨hphase, hprevPhase, hstep, hprevStep, hstatus⟩ := hs
  refine ⟨hphase, hprevPhase, hstep, hprevStep, ?_⟩
  by_cases herr : s.err = 0#1
  · simpa [State.illegal, herr] using Cause.code_range cause
  · simpa [State.illegal, herr] using hstatus

/-- Where the elements have their reset values the invariant holds, whatever the configuration. -/
theorem State.inv_of_reset_values {s : State} (hphase : s.phase = 0#32) (hprevPhase : s.prevPhase = 0#32)
    (hstep : s.stepCtr = 0#16) (hprevStep : s.prevStep = 0#16) (herr : s.err = 0#1) (hcause : s.cause = 0#4)
    (heport : s.eport = 0#1) : s.Inv := by
  have hone : 0 < s.cfg.params.one := Nat.two_pow_pos _
  have hn : 0 < s.cfg.params.n := by
    obtain ⟨_, _, hlo, _⟩ := s.cfg.ranges
    omega
  simp [State.Inv, *]

theorem step_inv {s t : State} (h : step s = .next t) (hs : s.Inv) : t.Inv := by
  rcases step_cases h with ⟨_, rfl⟩ | ⟨rest, _, rfl⟩ | ⟨_, _, _, _, _, hexec⟩ | ⟨_, _, cause, _, _, rfl⟩
  · exact hs
  · exact State.inv_of_reset_values rfl rfl rfl rfl rfl rfl rfl
  · exact exec_inv hexec hs
  · exact State.illegal_inv hs _ _

/-- What every step keeps, every run keeps. -/
theorem run_invariant {P : State → Prop} (hstep : ∀ s t, P s → step s = .next t → P t) {k : Nat} {s t : State}
    (hs : P s) (h : Host.Core.run core k s = .next t) : P t := by
  induction k generalizing s with
  | zero => cases h; exact hs
  | succ k ih =>
    obtain ⟨u, hu⟩ := step_total s
    exact ih (hstep s u hs hu) (run_succ core hu k ▸ h)

/-! ## The status over a run -/

/-- The status tells of this illegal command, and is clear for none (10_state.md R33). -/
def StatusTells (s : State) : Option (Cause × Port) → Prop
  | none => s.err = 0#1 ∧ s.cause = 0#4 ∧ s.eport = 0#1
  | some (cause, p) => s.err = 1#1 ∧ s.cause = cause.code ∧ s.eport = portBit p

theorem StatusTells.of_kept {s t : State} {r : Option (Cause × Port)} (hs : StatusTells s r) (h : StatusKept s t) :
    StatusTells t r := by
  obtain ⟨herr, hcause, heport⟩ := h
  cases r <;> simpa [StatusTells, herr, hcause, heport] using hs

/-- An illegal command is told of where none was before it (60_exceptions.md R135, R138). -/
theorem StatusTells.illegal {s : State} {r : Option (Cause × Port)} (hs : StatusTells s r) (cause : Cause) (p : Port) :
    StatusTells (s.illegal cause p) (r.or (some (cause, p))) := by
  cases r with
  | none =>
    obtain ⟨herr, -, -⟩ := hs
    simp [StatusTells, State.illegal, herr]
  | some first =>
    obtain ⟨herr, hcause, heport⟩ := hs
    simp [StatusTells, State.illegal, herr, hcause, heport]

/-- A command is performed in one step, after which the status tells of it if it is the first illegal one. -/
theorem StatusTells.step {s : State} {c : Command} {rest : List Event} {r : Option (Cause × Port)}
    (hs : StatusTells s r) (hi : s.input = .command c :: rest) :
    ∃ t, step s = .next t ∧ t.input = rest ∧ StatusTells t (r.or (Event.command c).illegality) := by
  cases hd : decode c.port c.word with
  | ok i =>
    obtain ⟨t, ht⟩ := exec_total i (s.setInput rest)
    obtain ⟨-, -, -, hstatus, -, hinput⟩ := exec_frame ht
    refine ⟨t, step_of_legal hi hd ▸ ht, hinput, ?_⟩
    simpa [Event.illegality, hd] using hs.of_kept hstatus
  | error cause =>
    refine ⟨_, step_of_illegal hi hd, rfl, ?_⟩
    simpa [Event.illegality, hd] using StatusTells.illegal (s := s.setInput rest) hs cause c.port

/-- Over a run of commands the status tells of the first illegal one. -/
theorem StatusTells.finish {es : List Event} (hes : ∀ e ∈ es, e ≠ Event.reset) {s : State}
    {r : Option (Cause × Port)} (hs : StatusTells s r) (hi : s.input = es) :
    ∃ t, s.finish = .next t ∧ StatusTells t (r.or (es.findSome? Event.illegality)) := by
  induction es generalizing s r with
  | nil => exact ⟨s, State.finish_of_nil hi, by simpa using hs⟩
  | cons e es ih =>
    obtain ⟨he, hrest⟩ := List.forall_mem_cons.1 hes
    cases e with
    | reset => exact absurd rfl he
    | command c =>
      obtain ⟨u, hu, hui, husts⟩ := hs.step hi
      obtain ⟨t, ht, htsts⟩ := ih hrest husts hui
      refine ⟨t, (State.finish_of_cons hi hu hui).trans ht, ?_⟩
      rw [List.findSome?_cons]
      cases hc : (Event.command c).illegality <;> simpa [hc, Option.or_assoc] using htsts

end Sys2Proof.Machine

/-! # The obligations about the state -/

namespace Sys2Proof.Machine

/-- Settles O18: the fold over any listing of the pressed buttons is the KeyState, and the register is one such fold. -/
theorem controllerRegisterIsTheOrOfPressedFlags : Obligations.ControllerRegisterIsTheOrOfPressedFlags := by
  intro ks order horder
  refine ⟨Button.toNat_flag, ?_, computeRegister_eq ks⟩
  rw [computeRegister_eq, foldl_or_flag_eq horder]

/-- Settles O40, from the frames of the legal commands and of the illegal one. -/
theorem onlyTheNamedCommandsWriteAnElement : Obligations.OnlyTheNamedCommandsWriteAnElement := by
  intro s t c rest hs h
  rcases step_command_cases hs h with ⟨i, hd, hexec⟩ | ⟨cause, hd, rfl⟩
  · obtain ⟨hkeys, hphase, hstep, hstatus, hcfg, -⟩ := exec_frame hexec
    simp only [hd, Except.ok.injEq]
    exact ⟨hkeys, hphase, hstep, .inr hstatus, hcfg⟩
  · obtain ⟨hkeys, hphase, hstep, hcfg, -⟩ := (s.setInput rest).illegal_frame cause c.port
    exact ⟨.inr hkeys, .inr hphase, .inr hstep, .inl ⟨cause, hd⟩, hcfg⟩

/-- Settles O43: a configuration is built exactly where the check passes, and each part of the check says its rule. -/
theorem illegalConfigurationsAreRefused : Obligations.IllegalConfigurationsAreRefused := by
  refine ⟨fun p => ?_, fun s => ⟨s.cfg, s.cfg.ofParams_params, rfl⟩⟩
  rw [Config.exists_ofParams_iff]
  simp only [Params.legal, Bool.and_eq_true, Params.rangesOk_iff, Params.incrementsOk_iff, Params.octavesOk_iff,
    Params.ladderOk_iff, and_assoc]

/-- Settles O46: from a clear status, a run's status tells of the first illegal command. -/
theorem statusTellsTheFirstIllegalCommand : Obligations.StatusTellsTheFirstIllegalCommand := by
  intro s herr hcause heport hes
  have hclear : StatusTells s none := ⟨herr, hcause, heport⟩
  obtain ⟨t, ht, htells⟩ := StatusTells.finish hes hclear rfl
  refine ⟨t, ht, ?_⟩
  rw [Option.none_or] at htells
  cases hf : s.input.findSome? Event.illegality with
  | none => rwa [hf] at htells
  | some first => rwa [hf] at htells

/-- Settles O49: the reset values meet the invariant, and every step keeps it. -/
theorem everyReachableStateMeetsTheInvariant : Obligations.EveryReachableStateMeetsTheInvariant := by
  intro c es k t hrun
  exact run_invariant (fun _ _ hs h => step_inv h hs)
    (State.inv_of_reset_values rfl rfl rfl rfl rfl rfl rfl) hrun

end Sys2Proof.Machine

/-! # What each port's commands can do -/

namespace Sys2Proof

theorem Instr.port_eq_A_iff {i : Instr} : i.port = .A ↔ i = .sample ∨ i = .bufend := by
  cases i <;> simp [Instr.port]

theorem port_of_readbackOf {sel : BitVec 8} {i : Instr} (h : readbackOf sel = some i) : i.port = .I := by
  unfold readbackOf at h
  split_ifs at h <;> cases h <;> rfl

/-- The defined opcodes of each port (30_encoding.md R60). -/
theorem portOfOp_eq_some_iff {op : BitVec 4} {p : Port} : portOfOp op = some p ↔
    p = .I ∧ (op = 0x1#4 ∨ op = 0x4#4) ∨ p = .A ∧ (op = 0x2#4 ∨ op = 0x3#4) := by
  revert op
  cases p <;> decide

/-- A word decodes only to a command of the port it came on (30_encoding.md R61, R67). -/
theorem port_of_decode {p : Port} {w : Word} {i : Instr} (h : decode p w = .ok i) : i.port = p := by
  have hport := Machine.portOfOp_of_decode h
  simp only [decode, hport, ne_eq, not_true_eq_false, if_false] at h
  split at h
  · cases h
  rcases portOfOp_eq_some_iff.1 hport with ⟨rfl, hop | hop⟩ | ⟨rfl, hop | hop⟩ <;>
    simp only [hop, reduceIte, BitVec.reduceEq] at h
  · split at h <;> cases h <;> rfl
  · cases hsel : readbackOf (selField w) with
    | none => simp [hsel] at h
    | some j =>
      rw [hsel] at h
      cases h
      exact port_of_readbackOf hsel
  all_goals
    cases h
    rfl

theorem portEvents_command_same (c : Command) (es : List Event) :
    portEvents c.port (.command c :: es) = .command c :: portEvents c.port es := by
  simp [portEvents, Event.actsOn]

theorem portEvents_command_other {p : Port} {c : Command} (h : c.port ≠ p) (es : List Event) :
    portEvents p (.command c :: es) = portEvents p es := by
  simp [portEvents, Event.actsOn, h]

end Sys2Proof

namespace Sys2Proof.Machine

/-- Performing a command takes its event, and no other, off the input (20_memory.md R44). -/
theorem step_command_input {s t : State} {c : Command} {rest : List Event} (hs : s.input = .command c :: rest)
    (h : step s = .next t) : t.input = rest := by
  rcases step_command_cases hs h with ⟨i, -, hexec⟩ | ⟨cause, -, rfl⟩
  · obtain ⟨-, -, -, -, -, hinput⟩ := exec_frame hexec
    exact hinput
  · rfl

/-! ## States alike on port A -/

theorem SameOnA.symm {s t : State} (h : SameOnA s t) : SameOnA t s := by
  obtain ⟨hcfg, hphase, hstep, hprevPhase, hprevStep, hresp⟩ := h
  exact ⟨hcfg.symm, hphase.symm, hstep.symm, hprevPhase.symm, hprevStep.symm, hresp.symm⟩

theorem SameOnA.trans {s t u : State} (h : SameOnA s t) (h' : SameOnA t u) : SameOnA s u := by
  obtain ⟨hcfg, hphase, hstep, hprevPhase, hprevStep, hresp⟩ := h
  obtain ⟨hcfg', hphase', hstep', hprevPhase', hprevStep', hresp'⟩ := h'
  exact ⟨hcfg.trans hcfg', hphase.trans hphase', hstep.trans hstep', hprevPhase.trans hprevPhase',
    hprevStep.trans hprevStep', hresp.trans hresp'⟩

/-- A legal command of port I writes nothing of what port A's commands read, write and answer. -/
theorem exec_sameOnA_of_portI {i : Instr} {s t : State} (hp : i.port = .I) (h : exec i s = .next t) : SameOnA t s := by
  rcases exec_cases h with ⟨_, rfl, rfl⟩ | ⟨_, rfl, rfl⟩ | ⟨rfl, -⟩ | ⟨rfl, -⟩ | ⟨⟨_, rfl⟩, -⟩ | ⟨⟨_, _, rfl⟩, -⟩
  case inr.inr.inl | inr.inr.inr.inl => cases hp -- SAMPLE and BUFEND are port A's
  all_goals exact ⟨rfl, rfl, rfl, rfl, rfl, rfl⟩

/-- Any command on port I, legal or not, leaves what port A sees as it was. -/
theorem step_sameOnA_of_portI {s t : State} {c : Command} {rest : List Event} (hs : s.input = .command c :: rest)
    (hp : c.port = .I) (h : step s = .next t) : SameOnA t s := by
  rcases step_command_cases hs h with ⟨i, hd, hexec⟩ | ⟨cause, -, rfl⟩
  · exact exec_sameOnA_of_portI (s := s.setInput rest) ((port_of_decode hd).trans hp) hexec
  · rw [hp]
    exact ⟨rfl, rfl, rfl, rfl, rfl, rfl⟩

/-- `SAMPLE` and `BUFEND` do and answer the same in states alike on port A. -/
theorem SameOnA.exec {i : Instr} {s s' t t' : State} (hss : SameOnA s s') (hp : i.port = .A)
    (h : exec i s = .next t) (h' : exec i s' = .next t') : SameOnA t t' := by
  obtain ⟨hcfg, hphase, hstep, hprevPhase, hprevStep, hresp⟩ := hss
  rcases Instr.port_eq_A_iff.1 hp with rfl | rfl <;> cases h <;> cases h'
  · have hsum : s.sum = s'.sum := by simp only [State.sum, State.incNow, hcfg, hphase, hstep]
    have hlevel : s.level = s'.level := by
      rw [State.level, State.level, State.ampNow, State.ampNow, hsum, hcfg, hstep]
    simp [SameOnA, hcfg, hphase, hstep, hprevStep, hresp, hsum, hlevel]
  · simp [SameOnA, hcfg, hphase, hstep, hprevPhase, hresp]

/-- A command on port A, legal or not, does and answers the same in states alike on port A. -/
theorem SameOnA.step {s s' t t' : State} {c : Command} {rest rest' : List Event} (hss : SameOnA s s')
    (hs : s.input = .command c :: rest) (hs' : s'.input = .command c :: rest') (hp : c.port = .A)
    (h : step s = .next t) (h' : step s' = .next t') : SameOnA t t' := by
  cases hd : decode c.port c.word with
  | ok i =>
    rw [step_of_legal hs hd] at h
    rw [step_of_legal hs' hd] at h'
    exact SameOnA.exec (s := s.setInput rest) (s' := s'.setInput rest') hss ((port_of_decode hd).trans hp) h h'
  | error cause =>
    rw [step_of_illegal hs hd, hp] at h
    rw [step_of_illegal hs' hd, hp] at h'
    cases h
    cases h'
    obtain ⟨hcfg, hphase, hstep, hprevPhase, hprevStep, hresp⟩ := hss
    exact ⟨hcfg, hphase, hstep, hprevPhase, hprevStep, congrArg (0#32 :: ·) hresp⟩

/-- A run of commands ends, on port A, as the run of its port-A commands alone (20_memory.md R50). -/
theorem SameOnA.finish_portEvents {es : List Event} (hes : ∀ e ∈ es, e ≠ Event.reset) {s u : State}
    (hsu : SameOnA s u) (hs : s.input = es) (hu : u.input = portEvents .A es) :
    ∃ t v, s.finish = .next t ∧ u.finish = .next v ∧ SameOnA t v := by
  induction es generalizing s u with
  | nil => exact ⟨s, u, State.finish_of_nil hs, State.finish_of_nil hu, hsu⟩
  | cons e es ih =>
    obtain ⟨he, hrest⟩ := List.forall_mem_cons.1 hes
    cases e with
    | reset => exact absurd rfl he
    | command c =>
      obtain ⟨s₁, hs₁⟩ := step_total s
      have hin := step_command_input hs hs₁
      rw [State.finish_of_cons hs hs₁ hin]
      cases hp : c.port with
      | I =>
        rw [portEvents_command_other (by simp [hp])] at hu
        exact ih hrest ((step_sameOnA_of_portI hs hp hs₁).trans hsu) hin hu
      | A =>
        rw [← hp, portEvents_command_same, hp] at hu
        obtain ⟨u₁, hu₁⟩ := step_total u
        have hin' := step_command_input hu hu₁
        rw [State.finish_of_cons hu hu₁ hin']
        exact ih hrest (hsu.step hs hu hp hs₁ hu₁) hin hin'

end Sys2Proof.Machine

/-! # The obligations about the ports -/

namespace Sys2Proof.Machine

/-- Settles O50: both runs end alike on port A with the one run of their common port-A commands. -/
theorem portAIsIndependentOfPortI : Obligations.PortAIsIndependentOfPortI := by
  intro s s' hss hes hes' hports
  obtain ⟨t, v, ht, hv, htv⟩ :=
    SameOnA.finish_portEvents hes (s := s) (u := s.setInput (portEvents .A s.input)) ⟨rfl, rfl, rfl, rfl, rfl, rfl⟩ rfl rfl
  obtain ⟨t', v', ht', hv', htv'⟩ :=
    SameOnA.finish_portEvents hes' (s := s') (u := s.setInput (portEvents .A s.input)) hss.symm rfl hports
  obtain rfl : v = v' := by simpa [hv] using hv'
  exact ⟨t, t', ht, ht', htv.trans htv'.symm⟩

end Sys2Proof.Machine

/-! # A word and its fields -/

namespace Sys2Proof

/-- A field of a word holds a value exactly when the quotient and remainder of the word's number do. -/
theorem extractLsb'_eq_iff {w : Word} {start len : Nat} {v : BitVec len} :
    w.extractLsb' start len = v ↔ w.toNat / 2 ^ start % 2 ^ len = v.toNat := by
  rw [← BitVec.toNat_inj, BitVec.extractLsb'_toNat, Nat.shiftRight_eq_div_pow]

theorem toNat_opField (w : Word) : (opField w).toNat = w.toNat / 2 ^ 28 := by
  rw [← extractLsb'_eq_iff.1 (Eq.refl (opField w)), Nat.mod_eq_of_lt]
  omega

theorem toNat_selField (w : Word) : (selField w).toNat = w.toNat % 2 ^ 8 := by
  simpa using (extractLsb'_eq_iff.1 (Eq.refl (selField w))).symm

theorem keyField_eq_ofNat (w : Word) : keyField w = BitVec.ofNat 16 (w.toNat % 2 ^ 16) := by
  simp [keyField, extractLsb'_eq_iff]

/-- A word is its format K fields, one after the other (30_encoding.md R57). -/
theorem formatK_append (w : Word) :
    (opField w ++ w.extractLsb' 17 11 ++ pressedField w) ++ keyField w = w := by
  rw [opField, pressedField, keyField,
    BitVec.extractLsb'_append_extractLsb'_eq_extractLsb' (start₁ := 17) (len₁ := 11) rfl,
    BitVec.extractLsb'_append_extractLsb'_eq_extractLsb' (start₁ := 16) (len₁ := 1) rfl,
    BitVec.extractLsb'_append_extractLsb'_eq_extractLsb' (start₁ := 0) (len₁ := 16) rfl]
  exact BitVec.extractLsb'_eq_self

/-- A word is its format R fields, one after the other (30_encoding.md R58). -/
theorem formatR_append (w : Word) : (opField w ++ w.extractLsb' 8 20) ++ selField w = w := by
  rw [opField, selField,
    BitVec.extractLsb'_append_extractLsb'_eq_extractLsb' (start₁ := 8) (len₁ := 20) rfl,
    BitVec.extractLsb'_append_extractLsb'_eq_extractLsb' (start₁ := 0) (len₁ := 8) rfl]
  exact BitVec.extractLsb'_eq_self

/-- A word is its format N fields, one after the other (30_encoding.md R59). -/
theorem formatN_append (w : Word) : opField w ++ w.extractLsb' 0 28 = w := by
  rw [opField, BitVec.extractLsb'_append_extractLsb'_eq_extractLsb' (start₁ := 0) (len₁ := 28) rfl]
  exact BitVec.extractLsb'_eq_self

/-! # Decoding, opcode by opcode -/

theorem portOfOp_eq_none_iff {op : BitVec 4} : portOfOp op = none ↔ op.toNat = 0 ∨ 5 ≤ op.toNat := by
  revert op
  decide

/-- An opcode is reserved or one of the four defined ones (30_encoding.md R60). -/
theorem portOfOp_eq_none_or (op : BitVec 4) :
    portOfOp op = none ∨ op = 0x1#4 ∨ op = 0x2#4 ∨ op = 0x3#4 ∨ op = 0x4#4 := by
  revert op
  decide

theorem decode_reservedOpcode {w : Word} (h : portOfOp (opField w) = none) (p : Port) :
    decode p w = .error .reservedOpcode := by
  simp only [decode, h]

theorem decode_key {w : Word} (h : opField w = 0x1#4) (p : Port) :
    decode p w =
      if p = .A then .error .wrongPort
      else if w.extractLsb' 17 11 ≠ 0#11 then .error .reservedBits
      else if pressedField w = 1#1 then .ok (.keydown (keyField w))
      else .ok (.keyup (keyField w)) := by
  cases p <;> simp [decode, h, portOfOp, reservedBitSet]

theorem decode_sample {w : Word} (h : opField w = 0x2#4) (p : Port) :
    decode p w =
      if p = .I then .error .wrongPort
      else if w.extractLsb' 0 28 ≠ 0#28 then .error .reservedBits
      else .ok .sample := by
  cases p <;> simp [decode, h, portOfOp, reservedBitSet]

theorem decode_bufend {w : Word} (h : opField w = 0x3#4) (p : Port) :
    decode p w =
      if p = .I then .error .wrongPort
      else if w.extractLsb' 0 28 ≠ 0#28 then .error .reservedBits
      else .ok .bufend := by
  cases p <;> simp [decode, h, portOfOp, reservedBitSet]

theorem decode_readback {w : Word} (h : opField w = 0x4#4) (p : Port) :
    decode p w =
      if p = .A then .error .wrongPort
      else if w.extractLsb' 8 20 ≠ 0#20 then .error .reservedBits
      else (readbackOf (selField w)).elim (.error .reservedSelector) .ok := by
  cases p with
  | A => simp [decode, h, portOfOp]
  | I => cases hsel : readbackOf (selField w) <;> simp [decode, h, portOfOp, reservedBitSet, hsel]

/-- The readback of a selector, with the selector as a number (30_encoding.md R62, R65). -/
theorem readbackOf_eq_toNat (sel : BitVec 8) :
    readbackOf sel =
      if 6 < sel.toNat then none
      else if sel.toNat = 0 then some .rdCtrl1
      else if sel.toNat = 1 then some .rdCtrl2
      else if sel.toNat = 2 then some .rdStep
      else if sel.toNat = 3 then some .rdAmp
      else if sel.toNat = 4 then some .rdInc
      else if sel.toNat = 5 then some .rdPhase
      else some .rdStatus := by
  revert sel
  decide

/-! # Decoding and encoding are inverse -/

/-- The word of a readback is the readback opcode, clear reserved bits and the selector. -/
theorem encode_of_readbackOf {sel : BitVec 8} {i : Instr} (h : readbackOf sel = some i) :
    encode i = 0x400000#24 ++ sel := by
  unfold readbackOf at h
  split_ifs at h with hsel hsel hsel hsel hsel hsel hsel <;> cases h <;> rw [hsel] <;> rfl

theorem encode_of_decode_key {p : Port} {w : Word} {i : Instr} (hop : opField w = 0x1#4) (h : decode p w = .ok i) :
    encode i = w := by
  rw [decode_key hop] at h
  have hw := formatK_append w
  split_ifs at h with hp hres hpressed <;> cases h
  · rw [hop, not_not.1 hres, hpressed] at hw
    exact hw
  · have hreleased : pressedField w = 0#1 := (BitVec.eq_zero_or_eq_one _).resolve_right hpressed
    rw [hop, not_not.1 hres, hreleased] at hw
    exact hw

/-- A format N word with its reserved bits clear is its opcode's word of no operand (30_encoding.md R59). -/
theorem eq_of_formatN {w : Word} {op : BitVec 4} (hop : opField w = op) (hres : ¬ w.extractLsb' 0 28 ≠ 0#28) :
    op ++ 0#28 = w := by
  rw [← hop, ← not_not.1 hres]
  exact formatN_append w

theorem encode_of_decode_readback {p : Port} {w : Word} {i : Instr} (hop : opField w = 0x4#4) (h : decode p w = .ok i) :
    encode i = w := by
  rw [decode_readback hop] at h
  have hw := formatR_append w
  split_ifs at h with hp hres
  cases hsel : readbackOf (selField w) with
  | none => simp [hsel] at h
  | some j =>
    obtain rfl : j = i := by simpa [hsel] using h
    rw [hop, not_not.1 hres] at hw
    exact (encode_of_readbackOf hsel).trans hw

/-- The word of the command that a word decodes to is that word: the checks leave no bit of it free. -/
theorem encode_of_decode {p : Port} {w : Word} {i : Instr} (h : decode p w = .ok i) : encode i = w := by
  rcases portOfOp_eq_none_or (opField w) with hop | hop | hop | hop | hop
  · rw [decode_reservedOpcode hop] at h
    cases h
  · exact encode_of_decode_key hop h
  · rw [decode_sample hop] at h
    split_ifs at h with hp hres
    cases h
    exact eq_of_formatN hop hres
  · rw [decode_bufend hop] at h
    split_ifs at h with hp hres
    cases h
    exact eq_of_formatN hop hres
  · exact encode_of_decode_readback hop h

/-- A format K word with its reserved bits clear decodes to the transition that `P` says (40_encoder.md R76, R77). -/
theorem decode_append_key (pressed : BitVec 1) (key : KeyCode) :
    decode .I ((0x800#15 ++ pressed) ++ key) = .ok (if pressed = 1#1 then .keydown key else .keyup key) := by
  have hop : opField ((0x800#15 ++ pressed) ++ key) = 0x1#4 := by
    rw [Laws.OpcodePort.opField_append, BitVec.extractLsb'_append_eq_of_le (by decide)]
    rfl
  have hres : ((0x800#15 ++ pressed) ++ key).extractLsb' 17 11 = 0#11 := by
    rw [BitVec.extractLsb'_append_eq_of_le (by decide), BitVec.extractLsb'_append_eq_of_le (by decide)]
    rfl
  have hpressed : pressedField ((0x800#15 ++ pressed) ++ key) = pressed := by
    rw [pressedField, BitVec.extractLsb'_append_eq_of_le (by decide), BitVec.extractLsb'_append_eq_right]
  have hkey : keyField ((0x800#15 ++ pressed) ++ key) = key := BitVec.extractLsb'_append_eq_right
  simp [decode_key hop, hres, hpressed, hkey, apply_ite Except.ok]

/-- The word of a command decodes on the command's port to the command (30_encoding.md section 2). -/
theorem decode_encode (i : Instr) : decode i.port (encode i) = .ok i := by
  cases i with
  | keydown key => exact decode_append_key 1#1 key
  | keyup key => exact decode_append_key 0#1 key
  | _ => rfl

theorem decode_eq_ok_iff {p : Port} {w : Word} {i : Instr} : decode p w = .ok i ↔ i.port = p ∧ encode i = w := by
  refine ⟨fun h => ⟨port_of_decode h, encode_of_decode h⟩, ?_⟩
  rintro ⟨rfl, rfl⟩
  exact decode_encode i

end Sys2Proof

/-! # The obligations about the encoding -/

namespace Sys2Proof

/-- Settles O2: a command has a word on a port exactly when the word decodes to it there, and decoding is a function. -/
theorem everyWordIsOneCommandOrIllegal : Obligations.EveryWordIsOneCommandOrIllegal := by
  intro p w
  simp only [← decode_eq_ok_iff]
  cases hd : decode p w with
  | ok i => exact .inl ⟨i, rfl, fun j => by rw [Except.ok.injEq, eq_comm]⟩
  | error c => exact .inr ⟨c, rfl, fun j hj => by cases hj⟩

/-- Settles O3: each opcode's chain of checks, with its fields read as numbers. -/
theorem decodeFollowsTheChecks : Obligations.DecodeFollowsTheChecks := by
  intro p w
  rw [← toNat_opField]
  rcases portOfOp_eq_none_or (opField w) with hop | hop | hop | hop | hop
  · have hreserved := portOfOp_eq_none_iff.1 hop
    simp only [decode_reservedOpcode hop, hreserved, if_true]
  · cases p <;> simp [decode_key hop, hop, extractLsb'_eq_iff, pressedField, keyField_eq_ofNat]
  · cases p <;> simp [decode_sample hop, hop, extractLsb'_eq_iff]
  · cases p <;> simp [decode_bufend hop, hop, extractLsb'_eq_iff]
  · have helim := apply_ite (Option.elim · (Except.error Cause.reservedSelector) (Except.ok (α := Instr)))
    cases p <;> simp [decode_readback hop, hop, extractLsb'_eq_iff, readbackOf_eq_toNat, toNat_selField, helim]

end Sys2Proof

/-! # The key transitions -/

namespace Sys2Proof

/-- A defined opcode on the port that is not its own is illegal, whatever the rest of the word (30_encoding.md R61). -/
theorem decode_wrongPort {p q : Port} {w : Word} (hop : portOfOp (opField w) = some q) (hp : p ≠ q) :
    decode p w = .error .wrongPort := by
  simp [decode, hop, hp]

/-- A format K word with a reserved bit set is illegal, with the fields as numbers (30_encoding.md R57, R63). -/
theorem decode_key_reservedBits {w : Word} (hop : w.toNat / 2 ^ 28 = 1) (hres : w.toNat / 2 ^ 17 % 2 ^ 11 ≠ 0) :
    decode .I w = .error .reservedBits := by
  have hkey : opField w = 0x1#4 := BitVec.eq_of_toNat_eq ((toNat_opField w).trans hop)
  have hset : w.extractLsb' 17 11 ≠ 0#11 := fun h => hres (extractLsb'_eq_iff.1 h)
  rw [decode_key hkey, if_neg Port.noConfusion, if_pos hset]

end Sys2Proof

namespace Sys2Proof.Machine

/-! ## One KeyState -/

/-- A key that matches no entry leaves the KeyState (40_encoder.md R79, R80). -/
theorem recordTransition_of_unbound {bind : Vector KeyCode 8} {key : KeyCode} (h : ∀ b : Fin 8, bind.get b ≠ key)
    (v : Bool) (ks : BitVec 8) : recordTransition bind key v ks = ks := by
  apply pressed_ext
  intro btn
  rw [pressed_recordTransition, if_neg (h btn.index)]

/-- A transition recorded again finds every matching entry already written (40_encoder.md R83). -/
@[simp] theorem recordTransition_recordTransition (bind : Vector KeyCode 8) (key : KeyCode) (v : Bool) (ks : BitVec 8) :
    recordTransition bind key v (recordTransition bind key v ks) = recordTransition bind key v ks := by
  apply pressed_ext
  intro btn
  simp only [pressed_recordTransition]
  split <;> rfl

/-! ## The whole state -/

@[simp] theorem State.keyTransition_cfg (key : KeyCode) (v : Bool) (s : State) : (s.keyTransition key v).cfg = s.cfg := rfl

@[simp] theorem State.keyTransition_ks1 (key : KeyCode) (v : Bool) (s : State) :
    (s.keyTransition key v).ks1 = recordTransition s.cfg.params.bind1 key v s.ks1 := rfl

@[simp] theorem State.keyTransition_ks2 (key : KeyCode) (v : Bool) (s : State) :
    (s.keyTransition key v).ks2 = recordTransition s.cfg.params.bind2 key v s.ks2 := rfl

/-- Beside the KeyStates a transition writes nothing, and it answers 0 on port I (40_encoder.md R76, R77). -/
theorem State.keyTransition_frame (key : KeyCode) (v : Bool) (s : State) :
    PhaseKept s (s.keyTransition key v) ∧ StepKept s (s.keyTransition key v) ∧ StatusKept s (s.keyTransition key v) ∧
      OutsideKept s (s.keyTransition key v) ∧ AnsweredI s (s.keyTransition key v) 0#32 :=
  ⟨⟨rfl, rfl⟩, ⟨rfl, rfl⟩, ⟨rfl, rfl, rfl⟩, ⟨rfl, rfl⟩, rfl, rfl⟩

/-- `KEYDOWN` and `KEYUP` are the two transitions of their key. -/
theorem exec_of_key {key : KeyCode} {i : Instr} (hi : i = .keydown key ∨ i = .keyup key) :
    ∃ v, ∀ s, exec i s = .next (s.keyTransition key v) := by
  rcases hi with rfl | rfl
  · exact ⟨true, fun _ => rfl⟩
  · exact ⟨false, fun _ => rfl⟩

/-- A transition of a key bound nowhere only answers (40_encoder.md R80). -/
theorem State.keyTransition_of_unbound {key : KeyCode} {s : State} (h1 : ∀ b : Fin 8, s.cfg.params.bind1.get b ≠ key)
    (h2 : ∀ b : Fin 8, s.cfg.params.bind2.get b ≠ key) (v : Bool) : s.keyTransition key v = s.respond .I 0#32 := by
  rw [State.keyTransition, recordTransition_of_unbound h1, recordTransition_of_unbound h2]
  rfl

/-! # The obligations about the encoder -/

/-- Settles O13: `KEYDOWN` is the transition that writes 1 into each matching entry. -/
theorem keydownSetsEveryMatchingEntry : Obligations.KeydownSetsEveryMatchingEntry := by
  intro key s
  refine ⟨rfl, decode_encode (.keydown key), decode_wrongPort (Laws.OpcodePort.keydown key) Port.noConfusion,
    fun _ => decode_key_reservedBits, s.keyTransition key true, rfl, ?_⟩
  exact ⟨getLsbD_recordTransition _ key true s.ks1, getLsbD_recordTransition _ key true s.ks2,
    computeRegister_eq _, computeRegister_eq _, s.keyTransition_frame key true⟩

/-- Settles O14: `KEYUP` is the transition that writes 0 into each matching entry. -/
theorem keyupClearsEveryMatchingEntry : Obligations.KeyupClearsEveryMatchingEntry := by
  intro key s
  refine ⟨rfl, decode_encode (.keyup key), decode_wrongPort (Laws.OpcodePort.keyup key) Port.noConfusion,
    fun _ => decode_key_reservedBits, s.keyTransition key false, rfl, ?_⟩
  exact ⟨getLsbD_recordTransition _ key false s.ks1, getLsbD_recordTransition _ key false s.ks2,
    computeRegister_eq _, computeRegister_eq _, s.keyTransition_frame key false⟩

/-- Settles O15: each controller's KeyState is written from its own bindings, and no entry of them matches. -/
theorem controllersAreIndependent : Obligations.ControllersAreIndependent := by
  intro key i s t hi h
  obtain ⟨v, hexec⟩ := exec_of_key hi
  cases (hexec s).symm.trans h
  exact ⟨fun h1 => recordTransition_of_unbound h1 v s.ks1, fun h2 => recordTransition_of_unbound h2 v s.ks2⟩

/-- Settles O16: the transition of an unbound key writes neither KeyState. -/
theorem unboundKeyChangesNothing : Obligations.UnboundKeyChangesNothing := by
  intro key i s hi hunbound
  obtain ⟨v, hexec⟩ := exec_of_key hi
  obtain ⟨h1, h2⟩ := forall_and.1 hunbound
  rw [hexec s, State.keyTransition_of_unbound h1 h2]

/-- Settles O17: the second transition writes what the first one wrote. -/
theorem keyTransitionsAreIdempotent : Obligations.KeyTransitionsAreIdempotent := by
  intro key i s t u hi hst htu
  obtain ⟨v, hexec⟩ := exec_of_key hi
  cases (hexec s).symm.trans hst
  cases (hexec _).symm.trans htu
  obtain ⟨hphase, hstep, hstatus, houtside, -⟩ := (s.keyTransition key v).keyTransition_frame key v
  exact ⟨by simp [KeysKept], hphase, hstep, hstatus, houtside⟩

end Sys2Proof.Machine

/-! # The oscillator's commands -/

namespace Sys2Proof

/-- An illegal `SAMPLE` or `BUFEND`: a format N word with a reserved bit set, with the fields as numbers (30_encoding.md R59,
R63). -/
theorem decode_formatN_reservedBits {w : Word} (hop : w.toNat / 2 ^ 28 = 2 ∨ w.toNat / 2 ^ 28 = 3)
    (hres : w.toNat % 2 ^ 28 ≠ 0) : decode .A w = .error .reservedBits := by
  have hset : w.extractLsb' 0 28 ≠ 0#28 := fun h => hres (by simpa using extractLsb'_eq_iff.1 h)
  rw [← toNat_opField] at hop
  rcases hop with hop | hop
  · have hsample : opField w = 0x2#4 := BitVec.eq_of_toNat_eq hop
    rw [decode_sample hsample, if_neg Port.noConfusion, if_pos hset]
  · have hbufend : opField w = 0x3#4 := BitVec.eq_of_toNat_eq hop
    rw [decode_bufend hbufend, if_neg Port.noConfusion, if_pos hset]

/-- The ramp starts from silence (41_oscillator.md R100). -/
theorem Params.amp_zero (p : Params) : p.amp 0 = 0 := by
  rw [Params.amp, Nat.mul_zero, Nat.zero_div]

/-- The table has an entry for no step but those below N (10_state.md R27). -/
theorem Config.lt_n_of_inc_get (c : Config) {k v : Nat} (h : c.params.inc[k]? = some v) : k < c.params.n := by
  obtain ⟨_, _, _, _, _, hlen⟩ := c.ranges
  obtain ⟨hk, -⟩ := List.getElem?_eq_some_iff.1 h
  omega

end Sys2Proof

namespace Sys2Proof.Machine

/-! ## The response of a sample -/

theorem toNat_sampleWord_lt (v : Int) : (sampleWord v).toNat < 2 ^ 16 := by
  rw [sampleWord, BitVec.toNat_setWidth_of_le (by decide)]
  exact (BitVec.ofInt 16 v).isLt

/-- The low half of a sample's response is its value, where that fits 16 signed bits (30_encoding.md R68). -/
theorem toInt_sampleWord {v : Int} (hlo : -32768 ≤ v) (hhi : v ≤ 32767) : ((sampleWord v).setWidth 16).toInt = v := by
  rw [sampleWord, BitVec.setWidth_setWidth_of_le _ (by decide), BitVec.setWidth_eq]
  exact BitVec.toInt_ofInt_eq_self (by decide) hlo (by omega)

section Sample
variable {s : State}

theorem State.sum_of_get {inc : Nat} (h : s.cfg.params.inc[s.stepCtr.toNat]? = some inc) :
    s.sum = s.phase.toNat + inc := by
  rw [State.sum, State.incNow, Params.incAt_of_get h]

theorem State.level_of_lt_half (h : s.sum < s.cfg.params.half) : s.level = s.ampNow := if_pos h

theorem State.level_of_half_le (h : s.cfg.params.half ≤ s.sum) : s.level = -(s.ampNow : Int) := if_neg (by omega)

/-- In a step of the table a sample's response is its level, sign and all (10_state.md R29). -/
theorem State.toInt_sampleWord_level (h : s.stepCtr.toNat < s.cfg.params.n) :
    ((sampleWord s.level).setWidth 16).toInt = s.level := by
  have hamp := s.ampNow_le h
  have hlevel : s.level = s.ampNow ∨ s.level = -(s.ampNow : Int) := ite_eq_or_eq _ _ _
  exact toInt_sampleWord (by omega) (by omega)

/-- A sample of amplitude 0 answers 0 on either side of HALF (41_oscillator.md R103). -/
theorem State.sampleWord_level_of_silent (h : s.ampNow = 0) : sampleWord s.level = 0#32 := by
  have hlevel : s.level = 0 := by simp [State.level, h]
  rw [hlevel]
  rfl

/-- The wrap makes the phase smaller only by taking ONE off (41_oscillator.md R93). -/
theorem State.one_le_sum_of_wrap_lt (h : wrapOnce s.cfg.params s.sum < s.phase.toNat) : s.cfg.params.one ≤ s.sum := by
  by_contra hlt
  rw [wrapOnce, if_neg hlt, State.sum] at h
  omega

end Sample

/-! ## What `SAMPLE` and `BUFEND` do -/

/-- `SAMPLE` writes the wrapped sum into the phase, answers the level, and leaves the rest (41_oscillator.md R92). -/
theorem exec_sample_spec (s : State) : ∃ t, exec .sample s = .next t ∧
    t.phase.toNat = wrapOnce s.cfg.params s.sum ∧ t.prevPhase = s.phase ∧ AnsweredA s t (sampleWord s.level) ∧
    KeysKept s t ∧ StepKept s t ∧ StatusKept s t ∧ OutsideKept s t := by
  refine ⟨_, rfl, ?_, rfl, ⟨rfl, rfl⟩, ⟨rfl, rfl⟩, ⟨rfl, rfl⟩, ⟨rfl, rfl, rfl⟩, rfl, rfl⟩
  rw [State.respond_phase, State.setPhase_phase, BitVec.toNat_ofNat, Nat.mod_eq_of_lt s.wrap_lt]

/-- `BUFEND` advances the step modulo N, answers 0, and leaves the rest (41_oscillator.md R95). -/
theorem exec_bufend_spec (s : State) : ∃ t, exec .bufend s = .next t ∧
    t.stepCtr.toNat = (s.stepCtr.toNat + 1) % s.cfg.params.n ∧ t.prevStep = s.stepCtr ∧ AnsweredA s t 0#32 ∧
    KeysKept s t ∧ PhaseKept s t ∧ StatusKept s t ∧ OutsideKept s t :=
  ⟨_, rfl, s.cfg.toNat_ofNat_mod_n _, rfl, ⟨rfl, rfl⟩, ⟨rfl, rfl⟩, ⟨rfl, rfl⟩, ⟨rfl, rfl, rfl⟩, rfl, rfl⟩

/-- The increment and the amplitude in force are those of the step, so they stay where it does (41_oscillator.md R98). -/
theorem StepKept.incNow_ampNow {s t : State} (h : StepKept s t) (hcfg : t.cfg = s.cfg) :
    t.incNow = s.incNow ∧ t.ampNow = s.ampNow := by
  obtain ⟨hstep, -⟩ := h
  simp [State.incNow, State.ampNow, hstep, hcfg]

/-! ## A run of silent samples -/

/-- One step performs a `SAMPLE` that is next on port A. -/
theorem step_sample {s : State} {rest : List Event} (hs : s.input = .command ⟨.A, 0x20000000#32⟩ :: rest) :
    ∃ t, step s = .next t ∧ t.input = rest ∧ t.cfg = s.cfg ∧ t.phase.toNat = wrapOnce s.cfg.params s.sum ∧
      t.respA = sampleWord s.level :: s.respA ∧ StepKept s t := by
  obtain ⟨t, ht, hphase, -, ⟨-, hresp⟩, -, hstep, -, hcfg, hinput⟩ := exec_sample_spec (s.setInput rest)
  exact ⟨t, (step_of_legal hs (decode_encode .sample)).trans ht, hinput, hcfg, hphase, hresp, hstep⟩

/-- While the amplitude is 0, a run of `k` samples answers `k` zeros and advances the phase by `k` increments modulo ONE
(41_oscillator.md R93, R103). -/
theorem State.finish_silent_samples {k : Nat} {s : State}
    (hs : s.input = List.replicate k (.command ⟨.A, 0x20000000#32⟩)) (hamp : s.ampNow = 0)
    (hphase : s.phase.toNat < s.cfg.params.one) :
    ∃ t, s.finish = .next t ∧ t.respA = List.replicate k 0#32 ++ s.respA ∧
      t.phase.toNat = (s.phase.toNat + k * s.incNow) % s.cfg.params.one := by
  induction k generalizing s with
  | zero =>
    refine ⟨s, State.finish_of_nil hs, rfl, ?_⟩
    rw [Nat.zero_mul, Nat.add_zero, Nat.mod_eq_of_lt hphase]
  | succ k ih =>
    obtain ⟨u, hu, huinput, hucfg, huphase, huresp, hustep⟩ := step_sample hs
    obtain ⟨huinc, huamp⟩ := StepKept.incNow_ampNow hustep hucfg
    have hulow : u.phase.toNat < u.cfg.params.one := by
      rw [huphase, hucfg]
      exact s.wrap_lt_one hphase
    obtain ⟨t, ht, htresp, htphase⟩ := ih huinput (huamp.trans hamp) hulow
    refine ⟨t, (State.finish_of_cons hs hu huinput).trans ht, ?_, ?_⟩
    · rw [htresp, huresp, State.sampleWord_level_of_silent hamp, List.replicate_succ', List.append_assoc,
        List.singleton_append]
    · rw [htphase, huphase, huinc, hucfg, s.wrap_eq_mod hphase, Nat.mod_add_mod, State.sum]
      congr 1
      ring

/-- A run whose port-A events are all commands holds no reset: a reset acts on port A too (60_exceptions.md R148). -/
theorem ne_reset_of_portEvents {es : List Event} {k : Nat} {c : Command}
    (h : portEvents .A es = List.replicate k (.command c)) : ∀ e ∈ es, e ≠ Event.reset := by
  rintro e he rfl
  have hmem : Event.reset ∈ portEvents .A es := List.mem_filter.2 ⟨he, rfl⟩
  rw [h] at hmem
  cases List.eq_of_mem_replicate hmem

/-! # The obligations about the oscillator -/

/-- Settles O20: the wrapped sum and the level, with the increment of the table in the sum. -/
theorem sampleEmitsTheLevelAndAdvancesThePhase : Obligations.SampleEmitsTheLevelAndAdvancesThePhase := by
  intro s inc hinc
  refine ⟨rfl, decode_encode .sample, decode_wrongPort Laws.OpcodePort.sample Port.noConfusion,
    fun w hop => decode_formatN_reservedBits (.inl hop), ?_⟩
  obtain ⟨t, ht, hphase, hprev, hresp, hframe⟩ := exec_sample_spec s
  rw [wrapOnce, State.sum_of_get hinc] at hphase
  refine ⟨t, sampleWord s.level, ht, hphase, hprev, hresp, toNat_sampleWord_lt _, ?_, hframe⟩
  rw [State.toInt_sampleWord_level (s.cfg.lt_n_of_inc_get hinc), State.level, State.sum_of_get hinc]
  rfl

/-- Settles O21: the increment is at least 1 and below ONE, so neither the sum nor the sum less ONE is the old phase. -/
theorem phaseStaysBelowOneAndMoves : Obligations.PhaseStaysBelowOneAndMoves := by
  rintro s inc ⟨hlow, -⟩ hinc
  obtain ⟨t, ht, hphase, -⟩ := exec_sample_spec s
  obtain ⟨hpos, hlt⟩ := s.cfg.inc_bounds (List.mem_of_getElem? hinc)
  have hmoved : t.phase.toNat = s.phase.toNat + inc ∨ t.phase.toNat + s.cfg.params.one = s.phase.toNat + inc := by
    rw [hphase, wrapOnce, State.sum_of_get hinc]
    split <;> omega
  refine ⟨t, ht, hphase ▸ s.wrap_lt_one hlow, ?_, hmoved⟩
  intro heq
  rw [heq] at hmoved
  omega

/-- Settles O22: the level is chosen by the sum, and a sum that wraps is at least ONE, hence at least HALF. -/
theorem levelIsTestedBeforeTheWrap : Obligations.LevelIsTestedBeforeTheWrap := by
  rintro s inc ⟨-, -, hstep, -⟩ hinc
  obtain ⟨t, ht, hphase, -, hresp, -⟩ := exec_sample_spec s
  rw [← State.sum_of_get hinc]
  refine ⟨t, sampleWord s.level, ht, hresp, ?_⟩
  rw [State.toInt_sampleWord_level hstep]
  refine ⟨State.level_of_lt_half, State.level_of_half_le, fun hwrap => State.level_of_half_le ?_⟩
  have hone := State.one_le_sum_of_wrap_lt (hphase ▸ hwrap)
  rw [s.cfg.one_eq] at hone
  omega

/-- Settles O23: the step's successor modulo N fits the step counter. -/
theorem bufendAdvancesTheStep : Obligations.BufendAdvancesTheStep := by
  intro s
  exact ⟨rfl, decode_encode .bufend, decode_wrongPort Laws.OpcodePort.bufend Port.noConfusion,
    fun w hop => decode_formatN_reservedBits (.inr hop), exec_bufend_spec s⟩

/-- Settles O25: of the commands only `BUFEND` writes the step, and none writes the configuration. -/
theorem bufferKeepsIncrementAndAmplitude : Obligations.BufferKeepsIncrementAndAmplitude := by
  intro s t e rest hs hreset hbufend h
  cases e with
  | reset => exact absurd rfl hreset
  | command c =>
    obtain ⟨-, -, hstep, -, hcfg⟩ := onlyTheNamedCommandsWriteAnElement s t c rest hs h
    exact StepKept.incNow_ampNow (hstep.resolve_left (hbufend c rfl)) hcfg

/-- Settles O27: on port A the run ends as the run of its samples alone, and AMP(0) is 0. -/
theorem firstBufferIsSilent : Obligations.FirstBufferIsSilent := by
  intro c k inc0 es hinc hports
  let s : State := { State.reset with cfg := c, input := es }
  let u : State := s.setInput (portEvents .A es)
  obtain ⟨t, v, ht, hv, -, hphase, -, -, -, hresp⟩ :=
    SameOnA.finish_portEvents (ne_reset_of_portEvents hports) (s := s) (u := u) ⟨rfl, rfl, rfl, rfl, rfl, rfl⟩ rfl rfl
  have hamp : u.ampNow = 0 := c.params.amp_zero
  have hincNow : u.incNow = inc0 := Params.incAt_of_get hinc
  obtain ⟨v', hv', hvresp, hvphase⟩ := State.finish_silent_samples (s := u) hports hamp (Nat.two_pow_pos _)
  obtain rfl : v = v' := by simpa [hv] using hv'
  refine ⟨t, ht, hresp.trans (hvresp.trans (List.append_nil _)), ?_⟩
  have hzero : u.phase.toNat = 0 := rfl
  rw [hphase, hvphase, hincNow, hzero, Nat.zero_add]
  rfl

end Sys2Proof.Machine

/-! # The readbacks -/

namespace Sys2Proof

/-- A command of port I has its word on port I, and the word is illegal on port A (30_encoding.md R61). -/
theorem decode_encode_of_portI {i : Instr} (hp : i.port = .I) :
    decode .I (encode i) = .ok i ∧ decode .A (encode i) = .error .wrongPort := by
  have hok : decode .I (encode i) = .ok i := hp ▸ decode_encode i
  exact ⟨hok, decode_wrongPort (Machine.portOfOp_of_decode hok) Port.noConfusion⟩

/-- A word made of two parts, as a number. -/
theorem toNat_append_eq_add {m n : Nat} (x : BitVec m) (y : BitVec n) :
    (x ++ y).toNat = 2 ^ n * x.toNat + y.toNat := by
  rw [BitVec.toNat_append, ← Nat.shiftLeft_add_eq_or_of_lt y.isLt, Nat.shiftLeft_eq, Nat.mul_comm]

theorem toNat_ofNat_lt {x bound : Nat} (w : Nat) (h : x < bound) : (BitVec.ofNat w x).toNat < bound :=
  (Nat.mod_le x _).trans_lt h

end Sys2Proof

namespace Sys2Proof.Machine

/-! ## What an answer on port I leaves -/

/-- No element is written, as no readback writes one (42_readback.md R115). -/
abbrev NothingWritten (s t : State) : Prop :=
  KeysKept s t ∧ PhaseKept s t ∧ StepKept s t ∧ StatusKept s t ∧ OutsideKept s t

theorem State.respond_portI_spec (w : Word) (s : State) :
    AnsweredI s (s.respond .I w) w ∧ NothingWritten s (s.respond .I w) :=
  ⟨⟨rfl, rfl⟩, ⟨rfl, rfl⟩, ⟨rfl, rfl⟩, ⟨rfl, rfl⟩, ⟨rfl, rfl, rfl⟩, rfl, rfl⟩

/-- The status fields stand in the status word at bits 0, 4 and 8 (42_readback.md R122). -/
theorem toNat_statusWord (s : State) :
    (statusWord s).toNat = s.err.toNat + 2 ^ 4 * s.cause.toNat + 2 ^ 8 * s.eport.toNat := by
  simp only [statusWord, toNat_append_eq_add, BitVec.toNat_ofNat]
  omega

/-! ## Drawn words -/

theorem drawnFrom_drawBits (mask cur prev : Word) : DrawnFrom (drawBits mask cur prev) cur prev := by
  intro k
  rw [getLsbD_drawBits]
  exact ite_eq_or_eq _ _ _

/-- A bit that both candidates have clear is clear (42_readback.md R124). -/
theorem DrawnFrom.getLsbD_eq_false {r cur prev : Word} {k : Nat} (h : DrawnFrom r cur prev)
    (hcur : cur.getLsbD k = false) (hprev : prev.getLsbD k = false) : r.getLsbD k = false := by
  by_cases hk : k < 32
  · rcases h ⟨k, hk⟩ with hbit | hbit
    · exact hbit.trans hcur
    · exact hbit.trans hprev
  · exact BitVec.getLsbD_of_ge r k (by omega)

/-- A drawn word is as short as its candidates: their high bits are clear, so its are (42_readback.md R124). -/
theorem DrawnFrom.toNat_lt {r cur prev : Word} {bits : Nat} (h : DrawnFrom r cur prev)
    (hcur : cur.toNat < 2 ^ bits) (hprev : prev.toNat < 2 ^ bits) : r.toNat < 2 ^ bits := by
  apply Nat.lt_pow_two_of_testBit
  intro k hk
  have hpow : 2 ^ bits ≤ 2 ^ k := Nat.pow_le_pow_right (by decide) hk
  exact h.getLsbD_eq_false (Nat.testBit_lt_two_pow (hcur.trans_le hpow)) (Nat.testBit_lt_two_pow (hprev.trans_le hpow))

/-- A racy read answers on port I a word drawn from its two candidates, and writes nothing (20_memory.md R46). -/
theorem State.racyRead_spec (cur prev : Word) (s : State) :
    ∃ r, AnsweredI s (s.racyRead cur prev) r ∧ DrawnFrom r cur prev ∧ NothingWritten s (s.racyRead cur prev) := by
  obtain ⟨hresp, hkept⟩ := s.respond_portI_spec (drawBits (Config.freeDraw s.draws) cur prev)
  exact ⟨_, hresp, drawnFrom_drawBits _ cur prev, hkept⟩

/-- A racy readback answers a word as short as its candidates (42_readback.md R124). -/
theorem exec_racyRead_toNat_lt {i : Instr} {s : State} {cur prev : Word} {bits : Nat}
    (h : exec i s = .next (s.racyRead cur prev)) (hcur : cur.toNat < 2 ^ bits) (hprev : prev.toNat < 2 ^ bits) :
    ∃ t r, exec i s = .next t ∧ AnsweredI s t r ∧ r.toNat < 2 ^ bits := by
  obtain ⟨r, hresp, hdrawn, -⟩ := s.racyRead_spec cur prev
  exact ⟨_, r, h, hresp, hdrawn.toNat_lt hcur hprev⟩

/-! ## The candidates of the racy readbacks -/

theorem toNat_setWidth_step_lt (step : BitVec 16) : (step.setWidth 32).toNat < 2 ^ 16 := by
  rw [BitVec.toNat_setWidth_of_le (by decide)]
  exact step.isLt

/-- The amplitude at the step before fits a signed 16-bit sample too (10_state.md R29). -/
theorem State.amp_prevStep_le (s : State) (h : s.prevStep.toNat < s.cfg.params.n) :
    s.cfg.params.amp s.prevStep.toNat ≤ 32767 :=
  (s.setStep s.prevStep).ampNow_le h

/-! # The obligations about the readbacks -/

/-- Settles O31: the response is the controller register of controller 1, which is its KeyState. -/
theorem rdCtrl1ReadsControllerOne : Obligations.RdCtrl1ReadsControllerOne := by
  intro s
  obtain ⟨hok, hwrong⟩ := decode_encode_of_portI (i := .rdCtrl1) rfl
  refine ⟨rfl, hok, hwrong, s.respond .I (s.ks1.setWidth 32), ?_, s.respond_portI_spec _⟩
  rw [exec, execRdCtrl1, computeRegister_eq]

/-- Settles O32: the response is the controller register of controller 2, which is its KeyState. -/
theorem rdCtrl2ReadsControllerTwo : Obligations.RdCtrl2ReadsControllerTwo := by
  intro s
  obtain ⟨hok, hwrong⟩ := decode_encode_of_portI (i := .rdCtrl2) rfl
  refine ⟨rfl, hok, hwrong, s.respond .I (s.ks2.setWidth 32), ?_, s.respond_portI_spec _⟩
  rw [exec, execRdCtrl2, computeRegister_eq]

/-- Settles O33: a racy read of the step and its shadow, both of 16 bits. -/
theorem rdStepDrawsFromStepAndItsShadow : Obligations.RdStepDrawsFromStepAndItsShadow := by
  intro s
  obtain ⟨hok, hwrong⟩ := decode_encode_of_portI (i := .rdStep) rfl
  obtain ⟨r, hresp, hdrawn, hkept⟩ := s.racyRead_spec (s.stepCtr.setWidth 32) (s.prevStep.setWidth 32)
  have hlow := hdrawn.toNat_lt (toNat_setWidth_step_lt s.stepCtr) (toNat_setWidth_step_lt s.prevStep)
  exact ⟨rfl, hok, hwrong, _, r, rfl, hresp, hdrawn, hlow, hkept⟩

/-- Settles O34: a racy read of the amplitudes at the step and at its shadow. -/
theorem rdAmpDrawsFromTwoAmplitudes : Obligations.RdAmpDrawsFromTwoAmplitudes := by
  intro s
  obtain ⟨hok, hwrong⟩ := decode_encode_of_portI (i := .rdAmp) rfl
  obtain ⟨r, hresp, hdrawn, hkept⟩ := s.racyRead_spec (BitVec.ofNat 32 (s.cfg.params.amp s.stepCtr.toNat))
    (BitVec.ofNat 32 (s.cfg.params.amp s.prevStep.toNat))
  exact ⟨rfl, hok, hwrong, _, r, rfl, hresp, hdrawn, hkept⟩

/-- Settles O35: a racy read of the increments at the step and at its shadow, which are the table's. -/
theorem rdIncDrawsFromTwoIncrements : Obligations.RdIncDrawsFromTwoIncrements := by
  intro s cur prev hcur hprev
  obtain ⟨hok, hwrong⟩ := decode_encode_of_portI (i := .rdInc) rfl
  obtain ⟨r, hresp, hdrawn, hkept⟩ := s.racyRead_spec (BitVec.ofNat 32 cur) (BitVec.ofNat 32 prev)
  refine ⟨rfl, hok, hwrong, _, r, ?_, hresp, hdrawn, hkept⟩
  rw [exec, execRdInc, Params.incAt_of_get hcur, Params.incAt_of_get hprev]

/-- Settles O36: a racy read of the phase and its shadow, both below ONE where the invariant holds. -/
theorem rdPhaseDrawsFromPhaseAndItsShadow : Obligations.RdPhaseDrawsFromPhaseAndItsShadow := by
  intro s
  obtain ⟨hok, hwrong⟩ := decode_encode_of_portI (i := .rdPhase) rfl
  obtain ⟨r, hresp, hdrawn, hkept⟩ := s.racyRead_spec s.phase s.prevPhase
  have hlow : s.Inv → r.toNat < 2 ^ s.cfg.params.phaseW := fun ⟨hphase, hprevPhase, _⟩ =>
    hdrawn.toNat_lt hphase hprevPhase
  exact ⟨rfl, hok, hwrong, _, r, rfl, hresp, hdrawn, hlow, hkept⟩

/-- Settles O37: the response is the status word, and answering clears nothing. -/
theorem rdStatusReadsTheStatusFields : Obligations.RdStatusReadsTheStatusFields := by
  intro s
  obtain ⟨hok, hwrong⟩ := decode_encode_of_portI (i := .rdStatus) rfl
  obtain ⟨hresp, hkept⟩ := s.respond_portI_spec (statusWord s)
  exact ⟨rfl, hok, hwrong, _, _, rfl, hresp, toNat_statusWord s, hkept⟩

/-- Settles O38: a draw sets no bit that both candidates have clear, and the invariant bounds the candidates of each of the
four racy readbacks. -/
theorem tornReadsKeepConstantZeros : Obligations.TornReadsKeepConstantZeros := by
  refine ⟨fun cur prev s k hcur hprev => ?_, fun s i bits ⟨hphase, hprevPhase, hstep, hprevStep, _⟩ hi => ?_⟩
  · obtain ⟨r, ⟨hresp, -⟩, hdrawn, -⟩ := s.racyRead_spec cur prev
    exact ⟨r, hresp, hdrawn.getLsbD_eq_false hcur hprev⟩
  · simp only [List.mem_cons, Prod.mk.injEq, List.not_mem_nil, or_false] at hi
    rcases hi with ⟨rfl, rfl⟩ | ⟨rfl, rfl⟩ | ⟨rfl, rfl⟩ | ⟨rfl, rfl⟩
    · exact exec_racyRead_toNat_lt rfl (toNat_setWidth_step_lt _) (toNat_setWidth_step_lt _)
    · have hamp : s.cfg.params.amp s.stepCtr.toNat ≤ 32767 := s.ampNow_le hstep
      have hprevAmp := s.amp_prevStep_le hprevStep
      exact exec_racyRead_toNat_lt rfl (toNat_ofNat_lt 32 (by omega)) (toNat_ofNat_lt 32 (by omega))
    · exact exec_racyRead_toNat_lt rfl (toNat_ofNat_lt 32 (s.cfg.incAt_lt _)) (toNat_ofNat_lt 32 (s.cfg.incAt_lt _))
    · exact exec_racyRead_toNat_lt rfl hphase hprevPhase

end Sys2Proof.Machine

/-! # The illegal command -/

namespace Sys2Proof.Machine

/-- The first illegal command writes the status: its cause and its port (60_exceptions.md R135). -/
theorem State.illegal_status_of_clear {s : State} (h : s.err = 0#1) (cause : Cause) (p : Port) :
    (s.illegal cause p).err = 1#1 ∧ (s.illegal cause p).cause = cause.code ∧ (s.illegal cause p).eport = portBit p := by
  simp [State.illegal, h]

/-- A later illegal command leaves the status of the first (60_exceptions.md R138). -/
theorem State.illegal_statusKept {s : State} (h : s.err ≠ 0#1) (cause : Cause) (p : Port) :
    StatusKept s (s.illegal cause p) := by
  simp [StatusKept, State.illegal, h]

/-- An illegal command answers 0 on the port it came by (60_exceptions.md R135). -/
theorem State.illegal_answered (cause : Cause) (p : Port) (s : State) : Answered p s (s.illegal cause p) 0#32 := by
  cases p with
  | I => exact ⟨rfl, rfl⟩
  | A => exact ⟨rfl, rfl⟩

/-! # The obligations about exceptions -/

/-- Settles O7: the step takes the illegal-command outcome, whose status is the first one's and whose frame is the rest. -/
theorem illegalCommandRecordsOnlyTheFirst : Obligations.IllegalCommandRecordsOnlyTheFirst := by
  intro s c rest cause hs hd
  obtain ⟨hkeys, hphase, hstep, hcfg, hinput⟩ := (s.setInput rest).illegal_frame cause c.port
  refine ⟨_, step_of_illegal hs hd, fun hclear => ?_, fun hset => State.illegal_statusKept (s := s.setInput rest) hset _ _,
    hkeys, hphase, hstep, hcfg, hinput, (s.setInput rest).illegal_answered cause c.port⟩
  obtain ⟨herr, hcause, heport⟩ := State.illegal_status_of_clear (s := s.setInput rest) hclear cause c.port
  rw [hcause, heport]
  refine ⟨herr, ?_, ?_⟩
  · cases cause <;> rfl
  · cases c.port <;> rfl

/-- Settles O45: a legal command never writes the status, and an illegal one does not where `ERR` is set. -/
theorem onlyResetClearsTheStatus : Obligations.OnlyResetClearsTheStatus := by
  intro s t c rest hs hset h
  rcases step_command_cases hs h with ⟨i, -, hexec⟩ | ⟨cause, -, rfl⟩
  · obtain ⟨-, -, -, hstatus, -⟩ := exec_frame hexec
    exact hstatus
  · have hne : (s.setInput rest).err ≠ 0#1 := by simp [hset]
    exact State.illegal_statusKept hne cause c.port

end Sys2Proof.Machine

/-! # Reset -/

namespace Sys2Proof.Machine

/-- Where both candidates are one word, a draw is exact: it leaves nothing to choose (20_memory.md R46). -/
theorem DrawnFrom.eq_of_same {r w : Word} (h : DrawnFrom r w w) : r = w := by
  apply BitVec.eq_of_getLsbD_eq
  intro k hk
  exact (h ⟨k, hk⟩).elim id id

/-- A racy readback answers exactly where the shadow gives the same word as the element. -/
theorem exec_racyRead_exact {i : Instr} {s : State} {w : Word} (h : exec i s = .next (s.racyRead w w)) :
    ∃ u, exec i s = .next u ∧ AnsweredI s u w := by
  obtain ⟨r, hresp, hdrawn, -⟩ := s.racyRead_spec w w
  rw [hdrawn.eq_of_same] at hresp
  exact ⟨_, h, hresp⟩

/-- A readback of the other kind has no draw to make: it answers the word it responds with. -/
theorem exec_respond_exact {i : Instr} {s : State} {w : Word} (h : exec i s = .next (s.respond .I w)) :
    ∃ u, exec i s = .next u ∧ AnsweredI s u w :=
  ⟨_, h, (s.respond_portI_spec w).1⟩

/-- Reset silences the oscillator: the amplitude of step 0 is 0 (10_state.md R29). -/
theorem State.applyReset_ampNow (s : State) : s.applyReset.ampNow = 0 := s.cfg.params.amp_zero

/-- Reset clears the status word (42_readback.md R122). -/
theorem State.applyReset_statusWord (s : State) : statusWord s.applyReset = 0#32 :=
  BitVec.eq_of_toNat_eq (toNat_statusWord s.applyReset)

/-- After a reset every readback but `RD INC` answers 0, whatever the draw (70_reset_and_hazards.md R156). -/
theorem State.applyReset_readback (s : State) {i : Instr}
    (hi : i ∈ [Instr.rdCtrl1, .rdCtrl2, .rdStep, .rdAmp, .rdPhase, .rdStatus]) :
    ∃ u, exec i s.applyReset = .next u ∧ AnsweredI s.applyReset u 0#32 := by
  simp only [List.mem_cons, List.not_mem_nil, or_false] at hi
  rcases hi with rfl | rfl | rfl | rfl | rfl | rfl
  · exact exec_respond_exact (by rw [exec, execRdCtrl1, computeRegister_eq]; rfl)
  · exact exec_respond_exact (by rw [exec, execRdCtrl2, computeRegister_eq]; rfl)
  · exact exec_racyRead_exact rfl
  · -- Both candidates of `RD AMP` are the amplitude of step 0.
    have hamp : BitVec.ofNat 32 s.applyReset.ampNow = 0#32 := by rw [s.applyReset_ampNow]
    exact hamp ▸ exec_racyRead_exact (i := .rdAmp) rfl
  · exact exec_racyRead_exact rfl
  · exact exec_respond_exact (by rw [exec, execRdStatus, s.applyReset_statusWord])

/-- Settles O8: the step is the reset, which leaves each shadow equal to its element, so that no draw has a choice. -/
theorem resetEventLeavesTheResetValues : Obligations.ResetEventLeavesTheResetValues := by
  intro s rest hs
  have hctrl : computeRegister 0#8 = 0#8 := computeRegister_eq _
  exact ⟨(s.setInput rest).applyReset, step_of_reset hs, rfl, rfl, rfl, rfl, rfl, rfl, rfl, rfl, rfl, hctrl, hctrl,
    State.applyReset_ampNow _, rfl, rfl, fun _ hi => State.applyReset_readback _ hi, exec_racyRead_exact rfl⟩

end Sys2Proof.Machine

/-! # The obligations about decoding and one step -/

namespace Sys2Proof

/-- Settles O1: a well-formed command's port is the one its word decodes on. -/
theorem decodeOfEncode : Obligations.DecodeOfEncode := by
  intro i p hp
  obtain rfl : p = i.port := by simpa [Instr.wellFormedOn] using hp
  exact decode_encode i

/-- Settles O4: each word is the encoding of its command. -/
theorem exampleWordsDecode : Obligations.ExampleWordsDecode :=
  ⟨decode_encode (.keydown 0x14#16), decode_encode (.keyup 0x14#16), decode_encode .sample, decode_encode .bufend,
    decode_encode .rdStatus⟩

end Sys2Proof

namespace Sys2Proof.Machine

/-- Settles O48, by the four things a step can do. -/
theorem everyStepKeepsTheInvariant : Obligations.EveryStepKeepsTheInvariant :=
  fun _ _ hs h => step_inv h hs

/-- Settles O47: the reset values meet the invariant under every configuration. -/
theorem resetMeetsTheInvariant : Obligations.ResetMeetsTheInvariant :=
  State.inv_of_reset_values rfl rfl rfl rfl rfl rfl rfl

/-- Settles O6: the word on the next command's port is what the step decodes and executes. -/
theorem stepRunsTheDecodedCommand : Obligations.StepRunsTheDecodedCommand :=
  fun _ _ _ _ => step_of_legal

/-- Settles O9: every element of the reset state is written out as 0. -/
theorem resetStateHasTheResetValues : Obligations.ResetStateHasTheResetValues :=
  ⟨rfl, rfl, rfl, rfl, rfl, rfl, rfl, rfl, rfl⟩

/-- Settles O10: the step of an empty input is the state itself. -/
theorem nothingToPerformHoldsTheState : Obligations.NothingToPerformHoldsTheState :=
  fun _ => step_of_nil

/-- Settles O11, by the event a step performs. -/
theorem everyStepGivesANextState : Obligations.EveryStepGivesANextState := step_total

/-- Settles O5: the opcode of the line's word is the other port's, so the step takes the illegal-command outcome. -/
theorem wrongPortLineIsIllegalWithCauseTwo : Obligations.WrongPortLineIsIllegalWithCauseTwo := by
  intro p i s rest hp hs hclear
  have hd : decode p (encode i) = .error .wrongPort := decode_wrongPort (portOfOp_of_decode (decode_encode i)) hp
  obtain ⟨herr, hcause, heport⟩ := State.illegal_status_of_clear (s := s.setInput rest) hclear .wrongPort p
  obtain ⟨hkeys, hphase, hstep, -, hinput⟩ := (s.setInput rest).illegal_frame .wrongPort p
  exact ⟨_, step_of_illegal (c := ⟨p, encode i⟩) hs hd, herr, hcause, heport, hinput, hkeys, hphase, hstep,
    (s.setInput rest).illegal_answered .wrongPort p⟩

/-- Settles O42: of the four things a step can do, none writes the configuration. -/
theorem configurationIsFixed : Obligations.ConfigurationIsFixed := by
  intro s t h
  rcases step_cases h with ⟨-, rfl⟩ | ⟨rest, -, rfl⟩ | ⟨c, rest, i, -, -, hexec⟩ | ⟨c, rest, cause, -, -, rfl⟩
  · rfl
  · rfl
  · obtain ⟨-, -, -, -, hcfg, -⟩ := exec_frame hexec
    exact hcfg
  · rfl

/-- Settles O41: the commands that write an element of one port decode on that port alone. -/
theorem eachPortWritesOnlyItsOwnElements : Obligations.EachPortWritesOnlyItsOwnElements := by
  intro s t c rest hs h
  obtain ⟨hkeys, hphase, hstep, -, -⟩ := onlyTheNamedCommandsWriteAnElement s t c rest hs h
  refine ⟨fun hA => hkeys.resolve_left ?_, fun hI => ⟨hphase.resolve_left ?_, hstep.resolve_left ?_⟩⟩
  · rintro ⟨key, hd | hd⟩ <;> cases (port_of_decode hd).trans hA
  · exact fun hd => by cases (port_of_decode hd).trans hI
  · exact fun hd => by cases (port_of_decode hd).trans hI

/-! ## Responses -/

/-- What the response list says of the word a command answers, readbacks left open (30_encoding.md R68). -/
def FitsResponseList : Instr → Word → Prop
  | .keydown _, w | .keyup _, w | .bufend, w => w = 0#32
  | .sample, w => w.toNat < 2 ^ 16
  | _, _ => True

/-- A legal command answers one word, on its own port, as the response list says (30_encoding.md R68). -/
theorem exec_answered {i : Instr} {s t : State} (h : exec i s = .next t) :
    ∃ w, Answered i.port s t w ∧ FitsResponseList i w := by
  cases i <;> cases h
  case keydown | keyup | bufend => exact ⟨_, ⟨rfl, rfl⟩, rfl⟩
  case sample => exact ⟨_, ⟨rfl, rfl⟩, toNat_sampleWord_lt _⟩
  all_goals exact ⟨_, ⟨rfl, rfl⟩, trivial⟩ -- the readbacks

/-- Settles O12: a legal command answers as the response list says, an illegal one 0. -/
theorem everyCommandAnswersOnceOnItsPort : Obligations.EveryCommandAnswersOnceOnItsPort := by
  intro s t c rest hs h
  rcases step_command_cases hs h with ⟨i, hd, hexec⟩ | ⟨cause, hd, rfl⟩
  · obtain ⟨w, hanswered, hw⟩ := exec_answered hexec
    rw [port_of_decode hd] at hanswered
    simp only [hd, Except.ok.injEq]
    refine ⟨w, hanswered, nofun, ?_, ?_, ?_⟩
    · rintro key (rfl | rfl) <;> exact hw
    · rintro rfl
      exact hw
    · rintro rfl
      exact hw
  · simp only [hd]
    exact ⟨0#32, (s.setInput rest).illegal_answered cause c.port, fun _ _ => rfl, fun _ _ => rfl, fun _ => rfl, nofun⟩

/-! ## The draw -/

/-- Settles O39: the mask takes the current value's bit wherever the word agrees with it. -/
theorem drawAdmitsEveryMixture : Obligations.DrawAdmitsEveryMixture := by
  intro r cur prev hdrawn
  refine ⟨~~~(r ^^^ cur), BitVec.eq_of_getLsbD_eq fun k hk => ?_⟩
  have hmask : (~~~(r ^^^ cur)).getLsbD k = (r.getLsbD k == cur.getLsbD k) := by
    rw [BitVec.getLsbD_not, BitVec.getLsbD_xor, decide_eq_true hk, Bool.true_and]
    cases r.getLsbD k <;> cases cur.getLsbD k <;> rfl
  rw [getLsbD_drawBits, hmask]
  split
  · next hagree => exact (beq_iff_eq.1 hagree).symm
  · next hdiffer => exact ((hdrawn ⟨k, hk⟩).resolve_left (mt beq_iff_eq.2 hdiffer)).symm

end Sys2Proof.Machine

/-! # The key transitions over a run -/

namespace Sys2Proof.Machine

/-- A KeyState after a run of transitions of one controller, first to last. -/
def recordTransitions (bind : Vector KeyCode 8) (es : List (KeyCode × Bool)) (ks : BitVec 8) : BitVec 8 :=
  es.foldl (fun k e => recordTransition bind e.1 e.2 k) ks

/-- An entry holds what the last matching transition said, and its first value where none matches (40_encoder.md section 4). -/
theorem getLsbD_recordTransitions (bind : Vector KeyCode 8) (es : List (KeyCode × Bool)) (ks : BitVec 8) (b : Fin 8) :
    (recordTransitions bind es ks).getLsbD b.val =
      ((es.reverse.find? (fun e => e.1 == bind.get b)).map Prod.snd).getD (ks.getLsbD b.val) := by
  induction es using List.reverseRecOn with
  | nil => rfl
  | append_singleton es e ih =>
    rw [recordTransitions, List.foldl_concat, getLsbD_recordTransition, ← recordTransitions, ih, List.reverse_concat,
      List.find?_cons]
    by_cases hmatch : bind.get b = e.1
    · simp [hmatch]
    · have hne : (e.1 == bind.get b) = false := beq_false_of_ne (Ne.symm hmatch)
      rw [if_neg hmatch, hne]

/-- One step performs a key transition that is next on port I. -/
theorem step_keyTransition {s : State} {key : KeyCode} {v : Bool} {rest : List Event}
    (hs : s.input = .command ⟨.I, encode (if v then .keydown key else .keyup key)⟩ :: rest) :
    step s = .next ((s.setInput rest).keyTransition key v) := by
  cases v with
  | true => exact step_of_legal hs (decode_encode (.keydown key))
  | false => exact step_of_legal hs (decode_encode (.keyup key))

/-- A run of key transitions records them, in order, in both controllers. -/
theorem State.finish_keyTransitions {es : List (KeyCode × Bool)} {s : State}
    (hs : s.input = es.map (fun e => .command ⟨.I, encode (if e.2 then .keydown e.1 else .keyup e.1)⟩)) :
    ∃ t, s.finish = .next t ∧ t.ks1 = recordTransitions s.cfg.params.bind1 es s.ks1 ∧
      t.ks2 = recordTransitions s.cfg.params.bind2 es s.ks2 := by
  induction es generalizing s with
  | nil => exact ⟨s, State.finish_of_nil hs, rfl, rfl⟩
  | cons e es ih =>
    rw [State.finish_of_cons hs (step_keyTransition hs) rfl]
    exact ih rfl

/-- Settles O19: each KeyState at the end is the fold of the run's transitions, whose entries the last match decides. -/
theorem keyStateIsTheLastMatchingTransition : Obligations.KeyStateIsTheLastMatchingTransition := by
  intro es s hs
  obtain ⟨t, ht, hks1, hks2⟩ := State.finish_keyTransitions hs
  refine ⟨t, ht, fun b => ?_, fun b => ?_⟩
  · rw [hks1, getLsbD_recordTransitions]
    cases es.reverse.find? (fun e => e.1 == s.cfg.params.bind1.get b) <;> rfl
  · rw [hks2, getLsbD_recordTransitions]
    cases es.reverse.find? (fun e => e.1 == s.cfg.params.bind2.get b) <;> rfl

end Sys2Proof.Machine

/-! # The oscillator over a run -/

namespace Sys2Proof

/-- The ramp never descends (41_oscillator.md R100). -/
theorem Params.amp_mono (p : Params) : Monotone p.amp :=
  fun _ _ h => Nat.div_le_div_right (Nat.mul_le_mul_left _ h)

/-- The ramp ends at the maximum (41_oscillator.md R100). -/
theorem Config.amp_last (c : Config) : c.params.amp (c.params.n - 1) = c.params.maxAmp := by
  obtain ⟨_, _, hn, _⟩ := c.ranges
  exact Nat.mul_div_cancel _ (by omega)

/-- Settles O29: the ramp is monotone, and its two ends are 0 and MAX_AMP. -/
theorem amplitudeRampRisesToMaximum : Obligations.AmplitudeRampRisesToMaximum := by
  intro c
  refine ⟨c.params.amp_zero, c.amp_last, fun s hs => ?_, fun _ _ h => c.params.amp_mono h⟩
  calc c.params.amp s ≤ c.params.amp (c.params.n - 1) := c.params.amp_mono (by omega)
    _ = c.params.maxAmp := c.amp_last

end Sys2Proof

namespace Sys2Proof.Machine

/-- A level lies within the amplitude's range on both sides (10_state.md R29, 41_oscillator.md R100). -/
theorem State.level_bounds {s : State} (h : s.stepCtr.toNat < s.cfg.params.n) : -32767 ≤ s.level ∧ s.level ≤ 32767 := by
  have hamp := s.ampNow_le h
  rw [State.level]
  split <;> omega

/-- Settles O30: a sample reads as its level, and 0x8000 would read as -32768. -/
theorem sampleNeverReadsAsTheLowestPattern : Obligations.SampleNeverReadsAsTheLowestPattern := by
  rintro s ⟨-, -, hstep, -⟩
  obtain ⟨t, ht, -, -, hresp, -⟩ := exec_sample_spec s
  obtain ⟨hlo, hhi⟩ := State.level_bounds hstep
  rw [← State.toInt_sampleWord_level hstep] at hlo hhi
  refine ⟨t, _, ht, hresp, hlo, hhi, fun hlowest => ?_⟩
  rw [hlowest] at hlo
  exact absurd hlo (by decide)

/-- Settles O26: the new step's increment is added to the phase the `BUFEND` left. -/
theorem phaseRunsOnAcrossBuffers : Obligations.PhaseRunsOnAcrossBuffers := by
  rintro s inc ⟨hlow, -⟩ hinc
  obtain ⟨t, ht, hstep, -, -, -, ⟨hphase, -⟩, -, hcfg, -⟩ := exec_bufend_spec s
  obtain ⟨u, hu, huphase, -⟩ := exec_sample_spec t
  have hsum : t.sum = s.phase.toNat + inc := by
    rw [State.sum_of_get (hcfg ▸ hstep ▸ hinc), hphase]
  rw [t.wrap_eq_mod (hcfg ▸ hphase ▸ hlow), hsum, hcfg] at huphase
  exact ⟨t, u, ht, hu, huphase⟩

/-! ## Runs of buffer ends -/

/-- One step performs a `BUFEND` that is next on port A. -/
theorem step_bufend {s : State} {rest : List Event} (hs : s.input = .command ⟨.A, 0x30000000#32⟩ :: rest) :
    ∃ t, step s = .next t ∧ t.input = rest ∧ t.cfg = s.cfg ∧
      t.stepCtr.toNat = (s.stepCtr.toNat + 1) % s.cfg.params.n ∧ t.prevStep = s.stepCtr ∧ t.respA = 0#32 :: s.respA ∧
      PhaseKept s t := by
  obtain ⟨t, ht, hstep, hprev, ⟨-, hresp⟩, -, hphase, -, hcfg, hinput⟩ := exec_bufend_spec (s.setInput rest)
  exact ⟨t, (step_of_legal hs (decode_encode .bufend)).trans ht, hinput, hcfg, hstep, hprev, hresp, hphase⟩

/-- Settles O24, by induction on the number of `BUFEND`s. -/
theorem sweepIsCyclic : Obligations.SweepIsCyclic := by
  intro s k
  induction k generalizing s with
  | zero =>
    intro hlow hs
    exact ⟨s, State.finish_of_nil hs, (Nat.mod_eq_of_lt hlow).symm, rfl⟩
  | succ k ih =>
    intro hlow hs
    obtain ⟨u, hu, huinput, hucfg, hustep, -, -, huphase, -⟩ := step_bufend hs
    have hulow : u.stepCtr.toNat < u.cfg.params.n := by
      rw [hustep, hucfg]
      exact Nat.mod_lt _ (Nat.zero_lt_of_lt hlow)
    obtain ⟨t, ht, htstep, htphase⟩ := ih u hulow huinput
    refine ⟨t, (State.finish_of_cons hs hu huinput).trans ht, ?_, htphase.trans huphase⟩
    rw [htstep, hustep, hucfg, Nat.mod_add_mod, Nat.add_assoc, Nat.add_comm 1]

/-! ## One buffer -/

theorem StepKept.trans {s t u : State} (h : StepKept s t) (h' : StepKept t u) : StepKept s u := by
  obtain ⟨hstep, hprev⟩ := h
  obtain ⟨hstep', hprev'⟩ := h'
  exact ⟨hstep'.trans hstep, hprev'.trans hprev⟩

/-- The level of the sample that follows `k` others of its buffer: that of the sum (PHASE + k * INC) mod ONE + INC
(41_oscillator.md R92, R93). -/
def State.levelAfter (s : State) (k : Nat) : Int :=
  if (s.phase.toNat + k * s.incNow) % s.cfg.params.one + s.incNow < s.cfg.params.half then (s.ampNow : Int)
  else -(s.ampNow : Int)

/-- `SAMPLE`s that are next in a run answer the levels of the sums, newest first, and advance the phase by an increment each
modulo ONE (41_oscillator.md R92, R93). -/
theorem State.finish_samples_append {s : State} {k : Nat} {rest : List Event}
    (hs : s.input = List.replicate k (.command ⟨.A, 0x20000000#32⟩) ++ rest) (hlow : s.phase.toNat < s.cfg.params.one) :
    ∃ t, s.finish = t.finish ∧ t.input = rest ∧ t.cfg = s.cfg ∧ StepKept s t ∧
      t.phase.toNat = (s.phase.toNat + k * s.incNow) % s.cfg.params.one ∧
      t.respA = ((List.range k).map fun j => sampleWord (s.levelAfter j)).reverse ++ s.respA := by
  induction k generalizing rest with
  | zero =>
    refine ⟨s, rfl, hs, rfl, ⟨rfl, rfl⟩, ?_, rfl⟩
    rw [Nat.zero_mul, Nat.add_zero, Nat.mod_eq_of_lt hlow]
  | succ k ih =>
    rw [List.replicate_succ', List.append_assoc] at hs
    obtain ⟨u, hfinish, huinput, hucfg, hustep, huphase, huresp⟩ := ih hs
    obtain ⟨t, ht, htinput, htcfg, htphase, htresp, htstep⟩ := step_sample huinput
    obtain ⟨hinc, hamp⟩ := StepKept.incNow_ampNow hustep hucfg
    have hulow : u.phase.toNat < u.cfg.params.one := by
      rw [huphase, hucfg]
      exact Nat.mod_lt _ (Nat.two_pow_pos _)
    have hlevel : u.level = s.levelAfter k := by
      rw [State.level, State.sum, huphase, hinc, hamp, hucfg, State.levelAfter]
    refine ⟨t, hfinish.trans (State.finish_of_cons huinput ht htinput), htinput, htcfg.trans hucfg, hustep.trans htstep,
      ?_, ?_⟩
    · rw [htphase, u.wrap_eq_mod hulow, State.sum, huphase, hinc, hucfg, Nat.mod_add_mod, Nat.add_assoc, Nat.succ_mul]
    · rw [htresp, huresp, hlevel, List.range_succ, List.map_append, List.map_singleton,
        List.reverse_concat, List.cons_append]

/-- A run whose events on port A are commands holds no reset: a reset acts on port A too (60_exceptions.md R148). -/
theorem ne_reset_of_portEvents_eq_map {es : List Event} {cs : List Command}
    (h : portEvents .A es = cs.map Event.command) : ∀ e ∈ es, e ≠ Event.reset := by
  rintro e he rfl
  have hmem : Event.reset ∈ portEvents .A es := List.mem_filter.2 ⟨he, rfl⟩
  simp [h] at hmem

/-- The events of `FILL n`: its samples, and then the buffer's end (30_encoding.md R72). -/
theorem assembleProgram_fill (n : Nat) : assembleProgram [.fill n] =
    List.replicate n (.command ⟨.A, 0x20000000#32⟩) ++ [.command ⟨.A, 0x30000000#32⟩] := by
  simp [assembleProgram, AsmLine.assemble, fillCommands, encode]

/-- `FILL n` alone: the samples of one buffer, and then the step's advance (30_encoding.md R72). -/
theorem State.finish_fill {s : State} {n : Nat} (hs : s.input = assembleProgram [.fill n])
    (hlow : s.phase.toNat < s.cfg.params.one) :
    ∃ t, s.finish = .next t ∧ t.phase.toNat = (s.phase.toNat + n * s.incNow) % s.cfg.params.one ∧
      t.stepCtr.toNat = (s.stepCtr.toNat + 1) % s.cfg.params.n ∧ t.prevStep = s.stepCtr ∧
      t.respA = 0#32 :: ((List.range n).map fun k => sampleWord (s.levelAfter k)).reverse ++ s.respA := by
  rw [assembleProgram_fill] at hs
  obtain ⟨u, hfinish, huinput, hucfg, ⟨hustep, -⟩, huphase, huresp⟩ := State.finish_samples_append hs hlow
  obtain ⟨t, ht, htinput, -, htstep, htprev, htresp, ⟨htphase, -⟩⟩ := step_bufend huinput
  refine ⟨t, ?_, ?_, ?_, htprev.trans hustep, ?_⟩
  · rw [hfinish, State.finish_of_cons huinput ht htinput, State.finish_of_nil htinput]
  · rw [htphase, huphase]
  · rw [htstep, hustep, hucfg]
  · rw [htresp, huresp, List.cons_append]

/-- Settles O28: on port A the run ends as the run of the `FILL` alone. -/
theorem fillMakesOneBuffer : Obligations.FillMakesOneBuffer := by
  rintro s n inc ⟨hlow, -⟩ hinc hports
  obtain rfl : s.incNow = inc := Params.incAt_of_get hinc
  obtain ⟨t, v, ht, hv, -, hphase, hstep, -, hprevStep, hresp⟩ := SameOnA.finish_portEvents
    (ne_reset_of_portEvents_eq_map hports) (s := s) (u := s.setInput (portEvents .A s.input))
    ⟨rfl, rfl, rfl, rfl, rfl, rfl⟩ rfl rfl
  obtain ⟨v', hv', hfill⟩ := State.finish_fill (s := s.setInput (portEvents .A s.input)) hports hlow
  obtain rfl : v = v' := by simpa [hv] using hv'
  rw [← hphase, ← hstep, ← hprevStep, ← hresp] at hfill
  exact ⟨t, ht, hfill⟩

end Sys2Proof.Machine

/-! # The keys and the status over a run -/

namespace Sys2Proof

/-- Every event acts on some port, so the two ports' events are all of a run's. -/
theorem mem_iff_mem_portEvents {e : Event} {es : List Event} :
    e ∈ es ↔ e ∈ portEvents .I es ∨ e ∈ portEvents .A es := by
  have hacts : e.actsOn .I = true ∨ e.actsOn .A = true := by
    cases e with
    | reset => exact .inl rfl
    | command c => cases hp : c.port <;> simp [Event.actsOn, hp]
  simp only [portEvents, List.mem_filter, ← and_or_left, hacts, and_true]

end Sys2Proof

namespace Sys2Proof.Machine

/-! ## States alike in the keys -/

theorem SameKeys.symm {s t : State} (h : SameKeys s t) : SameKeys t s := by
  obtain ⟨hcfg, hks1, hks2⟩ := h
  exact ⟨hcfg.symm, hks1.symm, hks2.symm⟩

theorem SameKeys.trans {s t u : State} (h : SameKeys s t) (h' : SameKeys t u) : SameKeys s u := by
  obtain ⟨hcfg, hks1, hks2⟩ := h
  obtain ⟨hcfg', hks1', hks2'⟩ := h'
  exact ⟨hcfg.trans hcfg', hks1.trans hks1', hks2.trans hks2'⟩

theorem KeysKept.sameKeys {s t : State} (h : KeysKept s t) (hcfg : t.cfg = s.cfg) : SameKeys t s := ⟨hcfg, h⟩

/-- A legal command does the same to the keys in states alike in them: only a transition writes them, by the bindings. -/
theorem SameKeys.exec {i : Instr} {s s' t t' : State} (hss : SameKeys s s') (h : exec i s = .next t)
    (h' : exec i s' = .next t') : SameKeys t t' := by
  by_cases hi : ∃ key, i = .keydown key ∨ i = .keyup key
  · obtain ⟨key, hkey⟩ := hi
    obtain ⟨v, hexec⟩ := exec_of_key hkey
    cases (hexec s).symm.trans h
    cases (hexec s').symm.trans h'
    obtain ⟨hcfg, hks1, hks2⟩ := hss
    simp [SameKeys, hcfg, hks1, hks2]
  · obtain ⟨hkeys, -, -, -, hcfg, -⟩ := exec_frame h
    obtain ⟨hkeys', -, -, -, hcfg', -⟩ := exec_frame h'
    have hkept := (hkeys.resolve_left hi).sameKeys hcfg
    have hkept' := (hkeys'.resolve_left hi).sameKeys hcfg'
    exact hkept.trans (hss.trans hkept'.symm)

/-- An event does the same to the keys in states alike in them. -/
theorem SameKeys.step {s s' t t' : State} {e : Event} {rest rest' : List Event} (hss : SameKeys s s')
    (hs : s.input = e :: rest) (hs' : s'.input = e :: rest') (h : step s = .next t) (h' : step s' = .next t') :
    SameKeys t t' := by
  obtain ⟨hcfg, hks1, hks2⟩ := hss
  cases e with
  | reset =>
    rw [step_of_reset hs] at h
    rw [step_of_reset hs'] at h'
    cases h
    cases h'
    exact ⟨hcfg, rfl, rfl⟩
  | command c =>
    cases hd : decode c.port c.word with
    | ok i =>
      rw [step_of_legal hs hd] at h
      rw [step_of_legal hs' hd] at h'
      exact SameKeys.exec (s := s.setInput rest) (s' := s'.setInput rest') ⟨hcfg, hks1, hks2⟩ h h'
    | error cause =>
      rw [step_of_illegal hs hd] at h
      rw [step_of_illegal hs' hd] at h'
      cases h
      cases h'
      exact ⟨hcfg, hks1, hks2⟩

/-- A step takes the event it performs, and no other, off the input (20_memory.md R44). -/
theorem step_input {s t : State} {e : Event} {rest : List Event} (hs : s.input = e :: rest) (h : step s = .next t) :
    t.input = rest := by
  cases e with
  | reset =>
    rw [step_of_reset hs] at h
    cases h
    rfl
  | command c => exact step_command_input hs h

/-- An event that does not act on port I leaves the keys as they were: it is a command of port A (60_exceptions.md R146). -/
theorem step_sameKeys_of_not_actsOn {s t : State} {e : Event} {rest : List Event} (hs : s.input = e :: rest)
    (he : ¬ e.actsOn .I = true) (h : step s = .next t) : SameKeys t s := by
  cases e with
  | reset => exact absurd rfl he
  | command c =>
    have hp : c.port = .A := by cases hp : c.port <;> simp [Event.actsOn, hp] at he ⊢
    obtain ⟨hkeys, -⟩ := eachPortWritesOnlyItsOwnElements s t c rest hs h
    exact (hkeys hp).sameKeys (configurationIsFixed s t h)

/-- A run ends, in the keys, as the run of the events that act on port I alone (60_exceptions.md R146). -/
theorem SameKeys.finish_portEvents {es : List Event} {s u : State} (hsu : SameKeys s u) (hs : s.input = es)
    (hu : u.input = portEvents .I es) : ∃ t v, s.finish = .next t ∧ u.finish = .next v ∧ SameKeys t v := by
  induction es generalizing s u with
  | nil => exact ⟨s, u, State.finish_of_nil hs, State.finish_of_nil hu, hsu⟩
  | cons e es ih =>
    obtain ⟨s₁, hs₁⟩ := step_total s
    have hin := step_input hs hs₁
    rw [State.finish_of_cons hs hs₁ hin]
    by_cases he : e.actsOn .I = true
    · rw [portEvents, List.filter_cons_of_pos he, ← portEvents] at hu
      obtain ⟨u₁, hu₁⟩ := step_total u
      have hin' := step_input hu hu₁
      rw [State.finish_of_cons hu hu₁ hin']
      exact ih (hsu.step hs hu hs₁ hu₁) hin hin'
    · rw [portEvents, List.filter_cons_of_neg he, ← portEvents] at hu
      exact ih ((step_sameKeys_of_not_actsOn hs he hs₁).trans hsu) hin hu

/-- Settles O51: both runs end alike in the keys with the one run of their common port-I events. -/
theorem keysAreIndependentOfPortA : Obligations.KeysAreIndependentOfPortA := by
  intro s s' hss hports
  obtain ⟨t, v, ht, hv, htv⟩ :=
    SameKeys.finish_portEvents (s := s) (u := s.setInput (portEvents .I s.input)) ⟨rfl, rfl, rfl⟩ rfl rfl
  obtain ⟨t', v', ht', hv', htv'⟩ :=
    SameKeys.finish_portEvents (s := s') (u := s.setInput (portEvents .I s.input)) hss.symm rfl hports
  obtain rfl : v = v' := by simpa [hv] using hv'
  exact ⟨t, t', ht, ht', htv.trans htv'.symm⟩

/-! ## The error flag over a run -/

/-- After a command ERR is 1 exactly where it was before, or the command is illegal (60_exceptions.md R135, R138). -/
theorem step_err_iff {s t : State} {c : Command} {rest : List Event} (hs : s.input = .command c :: rest)
    (h : step s = .next t) : t.err = 1#1 ↔ s.err = 1#1 ∨ (Event.command c).illegality.isSome = true := by
  rcases step_command_cases hs h with ⟨i, hd, hexec⟩ | ⟨cause, hd, rfl⟩
  · obtain ⟨-, -, -, ⟨herr, -⟩, -⟩ := exec_frame hexec
    simp [herr, Event.illegality, hd]
  · rcases BitVec.eq_zero_or_eq_one s.err with herr | herr <;> simp [State.illegal, herr, Event.illegality, hd]

/-- After a run of commands ERR is 1 exactly where it was before, or some command was illegal (10_state.md R33). -/
theorem State.finish_err_iff {es : List Event} (hes : ∀ e ∈ es, e ≠ Event.reset) {s : State} (hs : s.input = es) :
    ∃ t, s.finish = .next t ∧ (t.err = 1#1 ↔ s.err = 1#1 ∨ ∃ e ∈ es, e.illegality.isSome = true) := by
  induction es generalizing s with
  | nil => exact ⟨s, State.finish_of_nil hs, by simp⟩
  | cons e es ih =>
    obtain ⟨he, hrest⟩ := List.forall_mem_cons.1 hes
    cases e with
    | reset => exact absurd rfl he
    | command c =>
      obtain ⟨u, hu⟩ := step_total s
      have hin := step_command_input hs hu
      obtain ⟨t, ht, hterr⟩ := ih hrest hin
      refine ⟨t, (State.finish_of_cons hs hu hin).trans ht, ?_⟩
      rw [hterr, step_err_iff hs hu, List.exists_mem_cons_iff, or_assoc]

theorem eq_of_eq_one_iff {x y : BitVec 1} (h : x = 1#1 ↔ y = 1#1) : x = y := by
  revert x y
  decide

/-- Settles O52: the keys depend on port I's events alone, the oscillator on port A's, and ERR on which commands there are. -/
theorem everyInterleavingEndsAlike : Obligations.EveryInterleavingEndsAlike := by
  intro s es es' hes hes' hI hA
  obtain ⟨t, t', ht, ht', -, hks1, hks2⟩ :=
    keysAreIndependentOfPortA (s.setInput es) (s.setInput es') ⟨rfl, rfl, rfl⟩ hI
  obtain ⟨u, u', hu, hu', -, hphase, hstep, hprevPhase, hprevStep, hresp⟩ :=
    portAIsIndependentOfPortI (s.setInput es) (s.setInput es') ⟨rfl, rfl, rfl, rfl, rfl, rfl⟩ hes hes' hA
  obtain ⟨v, hv, hverr⟩ := State.finish_err_iff hes (s := s.setInput es) rfl
  obtain ⟨v', hv', hverr'⟩ := State.finish_err_iff hes' (s := s.setInput es') rfl
  obtain rfl := Host.Outcome.next.inj (ht.symm.trans hu)
  obtain rfl := Host.Outcome.next.inj (ht.symm.trans hv)
  obtain rfl := Host.Outcome.next.inj (ht'.symm.trans hu')
  obtain rfl := Host.Outcome.next.inj (ht'.symm.trans hv')
  have herr : t'.err = t.err := by
    apply eq_of_eq_one_iff
    rw [hverr, hverr']
    simp only [mem_iff_mem_portEvents (es := es), mem_iff_mem_portEvents (es := es'), hI, hA, State.setInput_err]
  exact ⟨t, t', ht, ht', ⟨hks1.symm, hks2.symm⟩, ⟨hphase.symm, hprevPhase.symm⟩, ⟨hstep.symm, hprevStep.symm⟩, herr,
    hresp.symm⟩

end Sys2Proof.Machine

/-! # The reference table -/

namespace Sys2Proof

/-- The floor of the real formula of 10_state.md R28, for a step within the first octave. -/
noncomputable def referenceFloor (f r : ℝ) (w s : Nat) : Nat :=
  ⌊f * (2 : ℝ) ^ ((s : ℝ) / 12) * 2 ^ w / r⌋₊

/-- The entry of the reference table at any step: one doubling for each whole octave (10_state.md R28). -/
noncomputable def referenceEntry (f r : ℝ) (w s : Nat) : Nat := 2 ^ (s / 12) * referenceFloor f r w (s % 12)

theorem referenceEntry_of_lt {s : Nat} (hs : s < 12) (f r : ℝ) (w : Nat) :
    referenceEntry f r w s = referenceFloor f r w s := by
  rw [referenceEntry, Nat.div_eq_of_lt hs, Nat.mod_eq_of_lt hs, pow_zero, one_mul]

theorem referenceEntry_add_octave (f r : ℝ) (w s : Nat) :
    referenceEntry f r w (s + 12) = 2 * referenceEntry f r w s := by
  rw [referenceEntry, referenceEntry, Nat.add_div_right s (by decide), Nat.add_mod_right, pow_succ']
  ring

theorem getElem?_map_range_eq_some_iff {g : Nat → Nat} {n s v : Nat} :
    ((List.range n).map g)[s]? = some v ↔ s < n ∧ g s = v := by
  rw [List.getElem?_eq_some_iff]
  simp

/-- The reference table's relation holds of the table of these entries. -/
theorem isReferenceTable_map_range {f r : ℝ} (hf : 0 < f) (hr : 0 < r) (w n : Nat) :
    Params.IsReferenceTable f r w n ((List.range n).map (referenceEntry f r w)) := by
  refine ⟨hf, hr, by simp, fun s v hv => ?_⟩
  obtain ⟨hs, rfl⟩ := getElem?_map_range_eq_some_iff.1 hv
  split
  · next hlow => exact referenceEntry_of_lt hlow f r w
  · next hhigh =>
    obtain ⟨k, rfl⟩ : ∃ k, s = k + 12 := ⟨s - 12, by omega⟩
    have hk : ((List.range n).map (referenceEntry f r w))[k]? = some (referenceEntry f r w k) :=
      getElem?_map_range_eq_some_iff.2 ⟨by omega, rfl⟩
    rw [Nat.add_sub_cancel, List.getD_eq_getElem?_getD, hk, referenceEntry_add_octave]
    rfl

/-- The relation fixes every entry, octave by octave. -/
theorem Params.IsReferenceTable.entry_eq {f r : ℝ} {w n s v : Nat} {inc : List Nat}
    (h : Params.IsReferenceTable f r w n inc) (hv : inc[s]? = some v) : v = referenceEntry f r w s := by
  induction s using Nat.strong_induction_on generalizing v with
  | _ s ih =>
    by_cases hs : s < 12
    · rw [h.entry_base hs hv, referenceEntry_of_lt hs, referenceFloor]
    · obtain ⟨k, rfl⟩ : ∃ k, s = k + 12 := ⟨s - 12, by omega⟩
      obtain ⟨hlen, -⟩ := List.getElem?_eq_some_iff.1 hv
      have hk : inc[k]? = some inc[k] := List.getElem?_eq_getElem (by omega)
      rw [h.entry_octave hv, List.getD_eq_getElem?_getD, hk, referenceEntry_add_octave, ← ih k (by omega) hk]
      rfl

/-- There is no other table: the relation fixes the length and every entry. -/
theorem Params.IsReferenceTable.eq_map_range {f r : ℝ} {w n : Nat} {inc : List Nat}
    (h : Params.IsReferenceTable f r w n inc) : inc = (List.range n).map (referenceEntry f r w) := by
  apply List.ext_getElem (by simp [h.length_eq])
  intro s hs hs'
  rw [List.getElem_map, List.getElem_range]
  exact h.entry_eq (List.getElem?_eq_getElem hs)

/-- Settles O44: the table of the floors and their doublings, the only one of which the relation holds. -/
theorem referenceTableIsTheFloorAndDoubles : Obligations.ReferenceTableIsTheFloorAndDoubles := by
  intro f r w n hf hr
  refine ⟨_, isReferenceTable_map_range hf hr w n, fun _ h => h.eq_map_range, by simp, fun s hs hn => ?_,
    fun s v hv hn => ?_⟩
  · exact getElem?_map_range_eq_some_iff.2 ⟨hn, referenceEntry_of_lt hs f r w⟩
  · obtain ⟨-, rfl⟩ := getElem?_map_range_eq_some_iff.1 hv
    exact getElem?_map_range_eq_some_iff.2 ⟨hn, referenceEntry_add_octave f r w s⟩

/-! ## The table evaluated -/

/-- The 12th power of the equal-tempered ratio of `s` semitones is a whole power of two. -/
theorem two_rpow_div_twelve_pow (s : Nat) : ((2 : ℝ) ^ ((s : ℝ) / 12)) ^ 12 = 2 ^ s := by
  rw [← Real.rpow_mul_natCast (by norm_num), Nat.cast_ofNat, div_mul_cancel₀ _ (by norm_num), Real.rpow_natCast]

/-- A number is at most the floor of the real formula exactly when it passes the search's test on 12th powers. -/
theorem le_referenceFloor_iff {num den : Nat} (hden : 0 < den) (w s k : Nat) :
    k ≤ referenceFloor num den w s ↔ (k * den) ^ 12 ≤ (num * 2 ^ w) ^ 12 * 2 ^ s := by
  have hden' : (0 : ℝ) < den := by exact_mod_cast hden
  rw [referenceFloor, Nat.le_floor_iff (by positivity), le_div_iff₀ hden',
    ← pow_le_pow_iff_left₀ (by positivity) (by positivity) (by decide : 12 ≠ 0), mul_right_comm,
    mul_pow (_ * _) ((2 : ℝ) ^ ((s : ℝ) / 12)), two_rpow_div_twelve_pow]
  exact_mod_cast Iff.rfl

/-- The floor lies in the searched range: within an octave the ratio is at most 2. -/
theorem referenceFloor_lt {num den : Nat} (hden : 0 < den) {w s : Nat} (hs : s < 12) :
    referenceFloor num den w s < 2 ^ (Nat.log2 (2 * (num * 2 ^ w) / den) + 1) := by
  have htest := (le_referenceFloor_iff (num := num) hden w s _).1 le_rfl
  have hpow : (referenceFloor num den w s * den) ^ 12 ≤ (2 * (num * 2 ^ w)) ^ 12 := by
    calc _ ≤ (num * 2 ^ w) ^ 12 * 2 ^ s := htest
      _ ≤ (num * 2 ^ w) ^ 12 * 2 ^ 12 := Nat.mul_le_mul_left _ (Nat.pow_le_pow_right (by decide) hs.le)
      _ = (2 * (num * 2 ^ w)) ^ 12 := by rw [← mul_pow, Nat.mul_comm]
  have hle : referenceFloor num den w s ≤ 2 * (num * 2 ^ w) / den :=
    (Nat.le_div_iff_mul_le hden).2 ((Nat.pow_le_pow_iff_left (by decide)).1 hpow)
  exact hle.trans_lt Nat.lt_log2_self

/-- The search evaluates the floor of the real formula. -/
theorem referenceBase_eq {num den : Nat} (hden : 0 < den) {w s : Nat} (hs : s < 12) :
    referenceBase num den w s = referenceFloor num den w s := by
  refine floorSearch_eq (fun k => ?_) _ _ (Nat.zero_le _) ?_
  · rw [decide_eq_true_iff, le_referenceFloor_iff hden]
  · rw [Nat.zero_add]
    exact referenceFloor_lt hden hs

/-- The formula depends on the ratio of the rates alone. -/
theorem referenceFloor_of_div_eq {f r f' r' : ℝ} (h : f / r = f' / r') (w s : Nat) :
    referenceFloor f r w s = referenceFloor f' r' w s := by
  have hsplit : ∀ x y : ℝ, x * (2 : ℝ) ^ ((s : ℝ) / 12) * 2 ^ w / y = x / y * ((2 : ℝ) ^ ((s : ℝ) / 12) * 2 ^ w) := by
    intro x y
    ring
  rw [referenceFloor, referenceFloor, hsplit, hsplit, h]

/-- The ratio of two positive rationals, as the evaluated table takes it. -/
theorem div_eq_num_den_div {f r : ℚ} (hf : 0 < f) (hr : 0 < r) :
    (f : ℝ) / r = ((f.num.toNat * r.den : Nat) : ℝ) / ((r.num.toNat * f.den : Nat) : ℝ) := by
  have hnum : ∀ q : ℚ, 0 < q → ((q.num.toNat : Nat) : ℝ) = q.num := fun q hq => by
    exact_mod_cast Int.toNat_of_nonneg (Rat.num_pos.2 hq).le
  push_cast
  rw [hnum f hf, hnum r hr, Rat.cast_def f, Rat.cast_def r, div_div_div_eq, mul_comm (f.den : ℝ)]

/-- Settles O53: each entry of the evaluated table is the reference table's, by the search in the first octave. -/
theorem referenceTableIsEvaluated : Obligations.ReferenceTableIsEvaluated := by
  intro f r w n hf hr
  have hden : 0 < r.num.toNat * f.den := Nat.mul_pos (by simpa using hr) f.den_pos
  have hentry : referenceInc (f.num.toNat * r.den) (r.num.toNat * f.den) w = referenceEntry f r w := by
    funext s
    rw [referenceInc, referenceBase_eq hden (Nat.mod_lt _ (by decide)), referenceEntry,
      referenceFloor_of_div_eq (div_eq_num_den_div hf hr)]
  rw [Params.referenceTable, hentry]
  exact isReferenceTable_map_range (by exact_mod_cast hf) (by exact_mod_cast hr) w n

end Sys2Proof
